-- ==== Sys2Proof/Word.lean ====
section
/-! DEFINITION. Words of the part and their plainest arithmetic (00_scope.md, 6.3 and 6.4). -/

namespace Sys2Proof

/-- One data byte of a CAN FD frame. -/
abbrev Byte := BitVec 8

/-- An angle in bau, 65,536 to the full turn (00_scope.md, 6.3). -/
abbrev Angle := BitVec 16

/-- A path position in cm, modulo 2^32 (00_scope.md, 6.3). -/
abbrev Cm := BitVec 32

/-- The stored pattern of a signal slot (R27). -/
abbrev SlotWord := BitVec 32

/-- The wrapped difference `wd(a, b)` of two angles (00_scope.md, 6.3). -/
def wd (a b : Angle) : Int := (a - b).toInt

/-- The wrapped difference from position `b` to position `a` (00_scope.md, 6.3). -/
def posDiff (a b : Cm) : Int := (a - b).toInt

/-- The clamp to `lo..hi` (00_scope.md, 6.4). -/
def clampInt (lo hi x : Int) : Int := if x < lo then lo else if hi < x then hi else x

/-- The symmetric clamp to `±m` (00_scope.md, 6.4). -/
def clampSym (m x : Int) : Int := clampInt (-m) m x

/-- The clamp to `lo..hi` on counts. -/
def clampNat (lo hi x : Nat) : Nat := if x < lo then lo else if hi < x then hi else x

end Sys2Proof
end

