-- ==== Sys2Proof/Syntax.lean ====
section
/-! DEFINITION. The names of the part's members and its commands: one constructor of `Instr` per row of
spec/opcode_table.json. -/

namespace Sys2Proof

/-- The two CAN FD ports: U faces the vehicle control unit, D the running gear (00_scope.md, 1). -/
inductive Port where
  | u | d
  deriving DecidableEq, Repr

/-- The other port: where a forwarded frame leaves (R14). -/
def Port.other : Port → Port
  | .u => .d
  | .d => .u

/-- An identifier with its format, base (11 bits) or extended (29 bits) (1.1). -/
inductive FrameId where
  | base (id : BitVec 11)
  | ext (id : BitVec 29)
  deriving DecidableEq, Repr

/-- One data frame: identifier, format and data bytes, byte 0 first (1.1, R4). -/
structure Frame where
  id : FrameId
  data : List Byte
  deriving DecidableEq, Repr

/-- The four axles (00_scope.md, 2). -/
inductive Axle where
  | a1 | a2 | a3 | a4
  deriving DecidableEq, Repr

/-- The two steered rear axles (4.3). -/
inductive Rear where
  | a3 | a4
  deriving DecidableEq, Repr

/-- The two articulation joints. -/
inductive Joint where
  | j1 | j2
  deriving DecidableEq, Repr

/-- The eight suspension corners in slot order: axle number, then left or right (Chapter 7). -/
inductive Corner where
  | c1L | c1R | c2L | c2R | c3L | c3R | c4L | c4R
  deriving DecidableEq, Repr

/-- The five passenger doors. -/
inductive Door where
  | d1 | d2 | d3 | d4 | d5
  deriving DecidableEq, Repr

/-- The emit kinds that may carry an echo (R166). -/
inductive EchoKind where
  | steer (r : Rear)
  | brake (a : Axle)
  deriving DecidableEq, Repr

/-- The commands of the part: the rows of spec/opcode_table.json with their operands.

A management request is the request frame's data after its request code (byte 1, the tag, and the parameters from
byte 2), as 12.6 lays them out; the request code is the constructor. -/
inductive Instr where
  /-- POWER_ON (R197), with the levels of the node-strap pins as they are read. -/
  | powerOn (straps : BitVec 3)
  /-- RESET_LINE (R197): the release of the active-low reset line, with the strap levels as they are read. -/
  | resetLine (straps : BitVec 3)
  /-- BUS_OFF (R2): a bus-off report of the port's link controller. -/
  | busOff (p : Port)
  /-- RECOVERY (R3): a recovery report of the port's link controller. -/
  | recovery (p : Port)
  /-- TRANSMIT_COMPLETE (R21): a transmit-complete report of the port's link controller. -/
  | transmitComplete (p : Port)
  /-- FRAME_ARRIVAL (R6): the link controller of `p` has received `f`. -/
  | frameArrival (p : Port) (f : Frame)
  /-- WATCH_EXPIRY (R13) of the entry at this place of the active FIT. -/
  | watchExpiry (entry : Fin 96)
  /-- CYCLE_TIMER_EXPIRY (R22). -/
  | cycleTimerExpiry
  /-- ECHO_TIMER_EXPIRY (R169) of the record of one emit kind. -/
  | echoTimerExpiry (k : EchoKind)
  /-- ACTIVE_SINCE_EXPIRY (R130) of one corner. -/
  | activeSinceExpiry (c : Corner)
  /-- KNEEL_ARM_TIMER_EXPIRY (R140). -/
  | kneelArmTimerExpiry
  /-- KNEEL_DEADLINE_EXPIRY (R142, R146). -/
  | kneelDeadlineExpiry
  /-- DOOR_ARM_TIMER_EXPIRY (R158) of one door. -/
  | doorArmTimerExpiry (d : Door)
  /-- LOCK_PROOF_EXPIRY (R161) of one door. -/
  | lockProofExpiry (d : Door)
  /-- RELEASE_HOLD_EXPIRY (R159) of one door. -/
  | releaseHoldExpiry (d : Door)
  /-- RESET_ARM_TIMER_EXPIRY (R196). -/
  | resetArmTimerExpiry
  /-- IDENT (R188), request code 1. -/
  | ident (rest : List Byte)
  /-- STATUS (R189), request code 2. -/
  | status (rest : List Byte)
  /-- READ (R191), request code 3. -/
  | read (rest : List Byte)
  /-- WRITE (R192), request code 4. -/
  | write (rest : List Byte)
  /-- SWAP (R193), request code 5. -/
  | swap (rest : List Byte)
  /-- COMMIT (R176, R194), request code 6. -/
  | commit (rest : List Byte)
  /-- HOLD (R179), request code 7. -/
  | hold (rest : List Byte)
  /-- RELEASE (R179), request code 8. -/
  | release (rest : List Byte)
  /-- DISCARD (R182), request code 9. -/
  | discard (rest : List Byte)
  /-- EVENTS (R195), request code 10. -/
  | events (rest : List Byte)
  /-- RESET_ARM (R196), request code 11. -/
  | resetArm (rest : List Byte)
  /-- RESET_GO (R196), request code 12. -/
  | resetGo (rest : List Byte)
  /-- BAD_REQUEST (R187): a request frame with no data or with a code that names no request. -/
  | badRequest (data : List Byte)
  deriving DecidableEq, Repr

end Sys2Proof
end

