-- ==== Sys2Proof/WellFormed.lean ====
section
/-! DEFINITION. The commands that can reach the part: what the operand types leave to be checked. -/

namespace Sys2Proof

/-- A link controller delivers frames of 0 to 64 data bytes (1.1). -/
def Frame.wellFormed (f : Frame) : Bool := decide (f.data.length ≤ 64)

/-- The data of a request frame after its code byte: at most 63 bytes (1.1). -/
def restWellFormed (rest : List Byte) : Bool := decide (rest.length ≤ 63)

/-- Byte 0 names a request: the codes 1 to 12 of 12.6. -/
def namesRequest (code : Byte) : Bool := decide (1 ≤ code.toNat ∧ code.toNat ≤ 12)

/-- The data of a BAD_REQUEST frame: at most 64 bytes, and none, or a first byte that names no request (R187, 1). -/
def badDataWellFormed (data : List Byte) : Bool :=
  decide (data.length ≤ 64) && (match data with
    | [] => true
    | code :: _ => !namesRequest code)

/-- A command that the outside of the part can send it. -/
def Instr.wellFormed : Instr → Bool
  | .powerOn _ => true
  | .resetLine _ => true
  | .busOff _ => true
  | .recovery _ => true
  | .transmitComplete _ => true
  | .frameArrival _ f => f.wellFormed
  | .watchExpiry _ => true
  | .cycleTimerExpiry => true
  | .echoTimerExpiry _ => true
  | .activeSinceExpiry _ => true
  | .kneelArmTimerExpiry => true
  | .kneelDeadlineExpiry => true
  | .doorArmTimerExpiry _ => true
  | .lockProofExpiry _ => true
  | .releaseHoldExpiry _ => true
  | .resetArmTimerExpiry => true
  | .ident rest => restWellFormed rest
  | .status rest => restWellFormed rest
  | .read rest => restWellFormed rest
  | .write rest => restWellFormed rest
  | .swap rest => restWellFormed rest
  | .commit rest => restWellFormed rest
  | .hold rest => restWellFormed rest
  | .release rest => restWellFormed rest
  | .discard rest => restWellFormed rest
  | .events rest => restWellFormed rest
  | .resetArm rest => restWellFormed rest
  | .resetGo rest => restWellFormed rest
  | .badRequest data => badDataWellFormed data

end Sys2Proof
end

