-- ==== Sys2Proof/Decode.lean ====
section
/-! DEFINITION. Reading commands from words. No row of spec/opcode_table.json gives bits, so `decodeTableWord` spells
no command; the management requests have an encoding of their own, the request frame of 12.6, read and written here. -/

namespace Sys2Proof

/-- The command spelt by a word of the opcode table's bits: none, for no row has any (log entry 23). -/
def decodeTableWord (_nbits _w : Nat) : Option Instr := none

/-- The request that the data of a management request frame carries (R187 check 1; request codes of 12.6). -/
def requestOfData : List Byte → Instr
  | [] => .badRequest []
  | code :: rest =>
    match code.toNat with
    | 1 => .ident rest
    | 2 => .status rest
    | 3 => .read rest
    | 4 => .write rest
    | 5 => .swap rest
    | 6 => .commit rest
    | 7 => .hold rest
    | 8 => .release rest
    | 9 => .discard rest
    | 10 => .events rest
    | 11 => .resetArm rest
    | 12 => .resetGo rest
    | _ => .badRequest (code :: rest)

/-- The data of the request frame that carries a management request, and none for the other commands (12.6). -/
def requestData : Instr → Option (List Byte)
  | .ident rest => some (1 :: rest)
  | .status rest => some (2 :: rest)
  | .read rest => some (3 :: rest)
  | .write rest => some (4 :: rest)
  | .swap rest => some (5 :: rest)
  | .commit rest => some (6 :: rest)
  | .hold rest => some (7 :: rest)
  | .release rest => some (8 :: rest)
  | .discard rest => some (9 :: rest)
  | .events rest => some (10 :: rest)
  | .resetArm rest => some (11 :: rest)
  | .resetGo rest => some (12 :: rest)
  | .badRequest data => some data
  | .powerOn _ => none
  | .resetLine _ => none
  | .busOff _ => none
  | .recovery _ => none
  | .transmitComplete _ => none
  | .frameArrival _ _ => none
  | .watchExpiry _ => none
  | .cycleTimerExpiry => none
  | .echoTimerExpiry _ => none
  | .activeSinceExpiry _ => none
  | .kneelArmTimerExpiry => none
  | .kneelDeadlineExpiry => none
  | .doorArmTimerExpiry _ => none
  | .lockProofExpiry _ => none
  | .releaseHoldExpiry _ => none
  | .resetArmTimerExpiry => none

end Sys2Proof
end

