-- ==== Sys2Proof/Config.lean ====
section
/-! DEFINITION. What the manual leaves open, as constants without a body. A proof can see nothing of their values. -/

namespace Sys2Proof

/-- The free choice behind every "either order is possible" of the manual (R11, R56, R108, R125, R129, R131). The
argument is `State.orderCount`, which moves on at each use, so that two choices are unrelated. Log entry 4. -/
opaque Config.pick : Nat → Nat

/-- Whether a table code byte of 8 to 255 in SWAP or COMMIT is answered BAD_TABLE (true) or BAD_REQUEST (false).
R187 speaks of code 7 alone and the layouts of 12.6 give these two requests a whole byte. Log entry 12. -/
opaque Config.wideTableCodeIsBadTable : Byte → Bool

end Sys2Proof
end

