-- ==== Sys2Proof/Machine/Members.lean ====
section
/-! DEFINITION. Records with one value for each member of a fixed group (axles, corners, doors, tables, ...), and the
two groups that Syntax.lean does not name: the tables and the reason kinds of the speed-limit map. -/

namespace Sys2Proof.Machine

/-- The seven tables in table-code order (11.1, 12.6). -/
inductive TableName where
  | fit | schedule | axle | corner | door | guard | constants
  deriving DecidableEq, Repr

/-- The reason kinds that key the speed-limit map (R49). -/
inductive LimitKind where
  | steerA3 | steerA4 | jointJ1 | jointJ2 | brake | levelHigh | levelSlow | kneelFault | sync
  deriving DecidableEq, Repr

/-- One value for each port. -/
structure PerPort (α : Type) where
  u : α
  d : α
  deriving DecidableEq, Repr

/-- The value of one member. -/
def PerPort.get {α : Type} (r : PerPort α) : Port → α
  | .u => r.u
  | .d => r.d

/-- The record with one member's value replaced. -/
def PerPort.set {α : Type} (r : PerPort α) (i : Port) (v : α) : PerPort α :=
  match i with
  | .u => { r with u := v }
  | .d => { r with d := v }

/-- The record that holds `f i` for each member `i`. -/
def PerPort.ofFn {α : Type} (f : Port → α) : PerPort α :=
  { u := f .u, d := f .d }

/-- The record that holds one value throughout. -/
def PerPort.const {α : Type} (v : α) : PerPort α := PerPort.ofFn fun _ => v

/-- The members in their order. -/
def PerPort.all : List Port := [.u, .d]

@[simp] theorem PerPort.get_set_self {α : Type} (r : PerPort α) (i : Port) (v : α) : (r.set i v).get i = v := by
  cases i <;> rfl

@[simp] theorem PerPort.get_set_of_ne {α : Type} (r : PerPort α) (i j : Port) (v : α) (h : j ≠ i) :
    (r.set i v).get j = r.get j := by
  revert h
  cases i <;> cases j <;> simp [PerPort.set, PerPort.get]

@[simp] theorem PerPort.get_ofFn {α : Type} (f : Port → α) (i : Port) : (PerPort.ofFn f).get i = f i := by
  cases i <;> rfl

@[simp] theorem PerPort.get_const {α : Type} (v : α) (i : Port) : (PerPort.const v).get i = v := by
  simp [PerPort.const]

theorem PerPort.mem_all (i : Port) : i ∈ PerPort.all := by
  cases i <;> simp [PerPort.all]

theorem PerPort.ext_get {α : Type} {r t : PerPort α} (h : ∀ i, r.get i = t.get i) : r = t := by
  rcases r with ⟨⟩
  rcases t with ⟨⟩
  simp only [PerPort.mk.injEq]
  exact ⟨h .u, h .d⟩

/-- One value for each axle. -/
structure PerAxle (α : Type) where
  a1 : α
  a2 : α
  a3 : α
  a4 : α
  deriving DecidableEq, Repr

/-- The value of one member. -/
def PerAxle.get {α : Type} (r : PerAxle α) : Axle → α
  | .a1 => r.a1
  | .a2 => r.a2
  | .a3 => r.a3
  | .a4 => r.a4

/-- The record with one member's value replaced. -/
def PerAxle.set {α : Type} (r : PerAxle α) (i : Axle) (v : α) : PerAxle α :=
  match i with
  | .a1 => { r with a1 := v }
  | .a2 => { r with a2 := v }
  | .a3 => { r with a3 := v }
  | .a4 => { r with a4 := v }

/-- The record that holds `f i` for each member `i`. -/
def PerAxle.ofFn {α : Type} (f : Axle → α) : PerAxle α :=
  { a1 := f .a1, a2 := f .a2, a3 := f .a3, a4 := f .a4 }

/-- The record that holds one value throughout. -/
def PerAxle.const {α : Type} (v : α) : PerAxle α := PerAxle.ofFn fun _ => v

/-- The members in their order. -/
def PerAxle.all : List Axle := [.a1, .a2, .a3, .a4]

@[simp] theorem PerAxle.get_set_self {α : Type} (r : PerAxle α) (i : Axle) (v : α) : (r.set i v).get i = v := by
  cases i <;> rfl

@[simp] theorem PerAxle.get_set_of_ne {α : Type} (r : PerAxle α) (i j : Axle) (v : α) (h : j ≠ i) :
    (r.set i v).get j = r.get j := by
  revert h
  cases i <;> cases j <;> simp [PerAxle.set, PerAxle.get]

@[simp] theorem PerAxle.get_ofFn {α : Type} (f : Axle → α) (i : Axle) : (PerAxle.ofFn f).get i = f i := by
  cases i <;> rfl

@[simp] theorem PerAxle.get_const {α : Type} (v : α) (i : Axle) : (PerAxle.const v).get i = v := by
  simp [PerAxle.const]

theorem PerAxle.mem_all (i : Axle) : i ∈ PerAxle.all := by
  cases i <;> simp [PerAxle.all]

theorem PerAxle.ext_get {α : Type} {r t : PerAxle α} (h : ∀ i, r.get i = t.get i) : r = t := by
  rcases r with ⟨⟩
  rcases t with ⟨⟩
  simp only [PerAxle.mk.injEq]
  exact ⟨h .a1, h .a2, h .a3, h .a4⟩

/-- One value for each steered rear axle. -/
structure PerRear (α : Type) where
  a3 : α
  a4 : α
  deriving DecidableEq, Repr

/-- The value of one member. -/
def PerRear.get {α : Type} (r : PerRear α) : Rear → α
  | .a3 => r.a3
  | .a4 => r.a4

/-- The record with one member's value replaced. -/
def PerRear.set {α : Type} (r : PerRear α) (i : Rear) (v : α) : PerRear α :=
  match i with
  | .a3 => { r with a3 := v }
  | .a4 => { r with a4 := v }

/-- The record that holds `f i` for each member `i`. -/
def PerRear.ofFn {α : Type} (f : Rear → α) : PerRear α :=
  { a3 := f .a3, a4 := f .a4 }

/-- The record that holds one value throughout. -/
def PerRear.const {α : Type} (v : α) : PerRear α := PerRear.ofFn fun _ => v

/-- The members in their order. -/
def PerRear.all : List Rear := [.a3, .a4]

@[simp] theorem PerRear.get_set_self {α : Type} (r : PerRear α) (i : Rear) (v : α) : (r.set i v).get i = v := by
  cases i <;> rfl

@[simp] theorem PerRear.get_set_of_ne {α : Type} (r : PerRear α) (i j : Rear) (v : α) (h : j ≠ i) :
    (r.set i v).get j = r.get j := by
  revert h
  cases i <;> cases j <;> simp [PerRear.set, PerRear.get]

@[simp] theorem PerRear.get_ofFn {α : Type} (f : Rear → α) (i : Rear) : (PerRear.ofFn f).get i = f i := by
  cases i <;> rfl

@[simp] theorem PerRear.get_const {α : Type} (v : α) (i : Rear) : (PerRear.const v).get i = v := by
  simp [PerRear.const]

theorem PerRear.mem_all (i : Rear) : i ∈ PerRear.all := by
  cases i <;> simp [PerRear.all]

theorem PerRear.ext_get {α : Type} {r t : PerRear α} (h : ∀ i, r.get i = t.get i) : r = t := by
  rcases r with ⟨⟩
  rcases t with ⟨⟩
  simp only [PerRear.mk.injEq]
  exact ⟨h .a3, h .a4⟩

/-- One value for each joint. -/
structure PerJoint (α : Type) where
  j1 : α
  j2 : α
  deriving DecidableEq, Repr

/-- The value of one member. -/
def PerJoint.get {α : Type} (r : PerJoint α) : Joint → α
  | .j1 => r.j1
  | .j2 => r.j2

/-- The record with one member's value replaced. -/
def PerJoint.set {α : Type} (r : PerJoint α) (i : Joint) (v : α) : PerJoint α :=
  match i with
  | .j1 => { r with j1 := v }
  | .j2 => { r with j2 := v }

/-- The record that holds `f i` for each member `i`. -/
def PerJoint.ofFn {α : Type} (f : Joint → α) : PerJoint α :=
  { j1 := f .j1, j2 := f .j2 }

/-- The record that holds one value throughout. -/
def PerJoint.const {α : Type} (v : α) : PerJoint α := PerJoint.ofFn fun _ => v

/-- The members in their order. -/
def PerJoint.all : List Joint := [.j1, .j2]

@[simp] theorem PerJoint.get_set_self {α : Type} (r : PerJoint α) (i : Joint) (v : α) : (r.set i v).get i = v := by
  cases i <;> rfl

@[simp] theorem PerJoint.get_set_of_ne {α : Type} (r : PerJoint α) (i j : Joint) (v : α) (h : j ≠ i) :
    (r.set i v).get j = r.get j := by
  revert h
  cases i <;> cases j <;> simp [PerJoint.set, PerJoint.get]

@[simp] theorem PerJoint.get_ofFn {α : Type} (f : Joint → α) (i : Joint) : (PerJoint.ofFn f).get i = f i := by
  cases i <;> rfl

@[simp] theorem PerJoint.get_const {α : Type} (v : α) (i : Joint) : (PerJoint.const v).get i = v := by
  simp [PerJoint.const]

theorem PerJoint.mem_all (i : Joint) : i ∈ PerJoint.all := by
  cases i <;> simp [PerJoint.all]

theorem PerJoint.ext_get {α : Type} {r t : PerJoint α} (h : ∀ i, r.get i = t.get i) : r = t := by
  rcases r with ⟨⟩
  rcases t with ⟨⟩
  simp only [PerJoint.mk.injEq]
  exact ⟨h .j1, h .j2⟩

/-- One value for each corner. -/
structure PerCorner (α : Type) where
  c1L : α
  c1R : α
  c2L : α
  c2R : α
  c3L : α
  c3R : α
  c4L : α
  c4R : α
  deriving DecidableEq, Repr

/-- The value of one member. -/
def PerCorner.get {α : Type} (r : PerCorner α) : Corner → α
  | .c1L => r.c1L
  | .c1R => r.c1R
  | .c2L => r.c2L
  | .c2R => r.c2R
  | .c3L => r.c3L
  | .c3R => r.c3R
  | .c4L => r.c4L
  | .c4R => r.c4R

/-- The record with one member's value replaced. -/
def PerCorner.set {α : Type} (r : PerCorner α) (i : Corner) (v : α) : PerCorner α :=
  match i with
  | .c1L => { r with c1L := v }
  | .c1R => { r with c1R := v }
  | .c2L => { r with c2L := v }
  | .c2R => { r with c2R := v }
  | .c3L => { r with c3L := v }
  | .c3R => { r with c3R := v }
  | .c4L => { r with c4L := v }
  | .c4R => { r with c4R := v }

/-- The record that holds `f i` for each member `i`. -/
def PerCorner.ofFn {α : Type} (f : Corner → α) : PerCorner α :=
  { c1L := f .c1L, c1R := f .c1R, c2L := f .c2L, c2R := f .c2R, c3L := f .c3L, c3R := f .c3R, c4L := f .c4L, c4R := f .c4R }

/-- The record that holds one value throughout. -/
def PerCorner.const {α : Type} (v : α) : PerCorner α := PerCorner.ofFn fun _ => v

/-- The members in their order. -/
def PerCorner.all : List Corner := [.c1L, .c1R, .c2L, .c2R, .c3L, .c3R, .c4L, .c4R]

@[simp] theorem PerCorner.get_set_self {α : Type} (r : PerCorner α) (i : Corner) (v : α) : (r.set i v).get i = v := by
  cases i <;> rfl

@[simp] theorem PerCorner.get_set_of_ne {α : Type} (r : PerCorner α) (i j : Corner) (v : α) (h : j ≠ i) :
    (r.set i v).get j = r.get j := by
  revert h
  cases i <;> cases j <;> simp [PerCorner.set, PerCorner.get]

@[simp] theorem PerCorner.get_ofFn {α : Type} (f : Corner → α) (i : Corner) : (PerCorner.ofFn f).get i = f i := by
  cases i <;> rfl

@[simp] theorem PerCorner.get_const {α : Type} (v : α) (i : Corner) : (PerCorner.const v).get i = v := by
  simp [PerCorner.const]

theorem PerCorner.mem_all (i : Corner) : i ∈ PerCorner.all := by
  cases i <;> simp [PerCorner.all]

theorem PerCorner.ext_get {α : Type} {r t : PerCorner α} (h : ∀ i, r.get i = t.get i) : r = t := by
  rcases r with ⟨⟩
  rcases t with ⟨⟩
  simp only [PerCorner.mk.injEq]
  exact ⟨h .c1L, h .c1R, h .c2L, h .c2R, h .c3L, h .c3R, h .c4L, h .c4R⟩

/-- One value for each door. -/
structure PerDoor (α : Type) where
  d1 : α
  d2 : α
  d3 : α
  d4 : α
  d5 : α
  deriving DecidableEq, Repr

/-- The value of one member. -/
def PerDoor.get {α : Type} (r : PerDoor α) : Door → α
  | .d1 => r.d1
  | .d2 => r.d2
  | .d3 => r.d3
  | .d4 => r.d4
  | .d5 => r.d5

/-- The record with one member's value replaced. -/
def PerDoor.set {α : Type} (r : PerDoor α) (i : Door) (v : α) : PerDoor α :=
  match i with
  | .d1 => { r with d1 := v }
  | .d2 => { r with d2 := v }
  | .d3 => { r with d3 := v }
  | .d4 => { r with d4 := v }
  | .d5 => { r with d5 := v }

/-- The record that holds `f i` for each member `i`. -/
def PerDoor.ofFn {α : Type} (f : Door → α) : PerDoor α :=
  { d1 := f .d1, d2 := f .d2, d3 := f .d3, d4 := f .d4, d5 := f .d5 }

/-- The record that holds one value throughout. -/
def PerDoor.const {α : Type} (v : α) : PerDoor α := PerDoor.ofFn fun _ => v

/-- The members in their order. -/
def PerDoor.all : List Door := [.d1, .d2, .d3, .d4, .d5]

@[simp] theorem PerDoor.get_set_self {α : Type} (r : PerDoor α) (i : Door) (v : α) : (r.set i v).get i = v := by
  cases i <;> rfl

@[simp] theorem PerDoor.get_set_of_ne {α : Type} (r : PerDoor α) (i j : Door) (v : α) (h : j ≠ i) :
    (r.set i v).get j = r.get j := by
  revert h
  cases i <;> cases j <;> simp [PerDoor.set, PerDoor.get]

@[simp] theorem PerDoor.get_ofFn {α : Type} (f : Door → α) (i : Door) : (PerDoor.ofFn f).get i = f i := by
  cases i <;> rfl

@[simp] theorem PerDoor.get_const {α : Type} (v : α) (i : Door) : (PerDoor.const v).get i = v := by
  simp [PerDoor.const]

theorem PerDoor.mem_all (i : Door) : i ∈ PerDoor.all := by
  cases i <;> simp [PerDoor.all]

theorem PerDoor.ext_get {α : Type} {r t : PerDoor α} (h : ∀ i, r.get i = t.get i) : r = t := by
  rcases r with ⟨⟩
  rcases t with ⟨⟩
  simp only [PerDoor.mk.injEq]
  exact ⟨h .d1, h .d2, h .d3, h .d4, h .d5⟩

/-- One value for each emit kind that may carry an echo. -/
structure PerEcho (α : Type) where
  steer3 : α
  steer4 : α
  brake1 : α
  brake2 : α
  brake3 : α
  brake4 : α
  deriving DecidableEq, Repr

/-- The value of one member. -/
def PerEcho.get {α : Type} (r : PerEcho α) : EchoKind → α
  | .steer .a3 => r.steer3
  | .steer .a4 => r.steer4
  | .brake .a1 => r.brake1
  | .brake .a2 => r.brake2
  | .brake .a3 => r.brake3
  | .brake .a4 => r.brake4

/-- The record with one member's value replaced. -/
def PerEcho.set {α : Type} (r : PerEcho α) (i : EchoKind) (v : α) : PerEcho α :=
  match i with
  | .steer .a3 => { r with steer3 := v }
  | .steer .a4 => { r with steer4 := v }
  | .brake .a1 => { r with brake1 := v }
  | .brake .a2 => { r with brake2 := v }
  | .brake .a3 => { r with brake3 := v }
  | .brake .a4 => { r with brake4 := v }

/-- The record that holds `f i` for each member `i`. -/
def PerEcho.ofFn {α : Type} (f : EchoKind → α) : PerEcho α :=
  { steer3 := f (.steer .a3), steer4 := f (.steer .a4), brake1 := f (.brake .a1), brake2 := f (.brake .a2), brake3 := f (.brake .a3), brake4 := f (.brake .a4) }

/-- The record that holds one value throughout. -/
def PerEcho.const {α : Type} (v : α) : PerEcho α := PerEcho.ofFn fun _ => v

/-- The members in their order. -/
def PerEcho.all : List EchoKind := [(.steer .a3), (.steer .a4), (.brake .a1), (.brake .a2), (.brake .a3), (.brake .a4)]

@[simp] theorem PerEcho.get_set_self {α : Type} (r : PerEcho α) (i : EchoKind) (v : α) : (r.set i v).get i = v := by
  rcases i with r' | a <;> [cases r'; cases a] <;> rfl

@[simp] theorem PerEcho.get_set_of_ne {α : Type} (r : PerEcho α) (i j : EchoKind) (v : α) (h : j ≠ i) :
    (r.set i v).get j = r.get j := by
  revert h
  rcases i with ⟨_ | _⟩ | ⟨_ | _ | _ | _⟩ <;> rcases j with ⟨_ | _⟩ | ⟨_ | _ | _ | _⟩ <;> simp [PerEcho.set, PerEcho.get]

@[simp] theorem PerEcho.get_ofFn {α : Type} (f : EchoKind → α) (i : EchoKind) : (PerEcho.ofFn f).get i = f i := by
  rcases i with ⟨_ | _⟩ | ⟨_ | _ | _ | _⟩ <;> rfl

@[simp] theorem PerEcho.get_const {α : Type} (v : α) (i : EchoKind) : (PerEcho.const v).get i = v := by
  simp [PerEcho.const]

theorem PerEcho.mem_all (i : EchoKind) : i ∈ PerEcho.all := by
  rcases i with ⟨_ | _⟩ | ⟨_ | _ | _ | _⟩ <;> simp [PerEcho.all]

theorem PerEcho.ext_get {α : Type} {r t : PerEcho α} (h : ∀ i, r.get i = t.get i) : r = t := by
  rcases r with ⟨⟩
  rcases t with ⟨⟩
  simp only [PerEcho.mk.injEq]
  exact ⟨h (.steer .a3), h (.steer .a4), h (.brake .a1), h (.brake .a2), h (.brake .a3), h (.brake .a4)⟩

/-- One value for each table. -/
structure PerTable (α : Type) where
  fit : α
  schedule : α
  axle : α
  corner : α
  door : α
  guard : α
  constants : α
  deriving DecidableEq, Repr

/-- The value of one member. -/
def PerTable.get {α : Type} (r : PerTable α) : TableName → α
  | .fit => r.fit
  | .schedule => r.schedule
  | .axle => r.axle
  | .corner => r.corner
  | .door => r.door
  | .guard => r.guard
  | .constants => r.constants

/-- The record with one member's value replaced. -/
def PerTable.set {α : Type} (r : PerTable α) (i : TableName) (v : α) : PerTable α :=
  match i with
  | .fit => { r with fit := v }
  | .schedule => { r with schedule := v }
  | .axle => { r with axle := v }
  | .corner => { r with corner := v }
  | .door => { r with door := v }
  | .guard => { r with guard := v }
  | .constants => { r with constants := v }

/-- The record that holds `f i` for each member `i`. -/
def PerTable.ofFn {α : Type} (f : TableName → α) : PerTable α :=
  { fit := f .fit, schedule := f .schedule, axle := f .axle, corner := f .corner, door := f .door, guard := f .guard, constants := f .constants }

/-- The record that holds one value throughout. -/
def PerTable.const {α : Type} (v : α) : PerTable α := PerTable.ofFn fun _ => v

/-- The members in their order. -/
def PerTable.all : List TableName := [.fit, .schedule, .axle, .corner, .door, .guard, .constants]

@[simp] theorem PerTable.get_set_self {α : Type} (r : PerTable α) (i : TableName) (v : α) : (r.set i v).get i = v := by
  cases i <;> rfl

@[simp] theorem PerTable.get_set_of_ne {α : Type} (r : PerTable α) (i j : TableName) (v : α) (h : j ≠ i) :
    (r.set i v).get j = r.get j := by
  revert h
  cases i <;> cases j <;> simp [PerTable.set, PerTable.get]

@[simp] theorem PerTable.get_ofFn {α : Type} (f : TableName → α) (i : TableName) : (PerTable.ofFn f).get i = f i := by
  cases i <;> rfl

@[simp] theorem PerTable.get_const {α : Type} (v : α) (i : TableName) : (PerTable.const v).get i = v := by
  simp [PerTable.const]

theorem PerTable.mem_all (i : TableName) : i ∈ PerTable.all := by
  cases i <;> simp [PerTable.all]

theorem PerTable.ext_get {α : Type} {r t : PerTable α} (h : ∀ i, r.get i = t.get i) : r = t := by
  rcases r with ⟨⟩
  rcases t with ⟨⟩
  simp only [PerTable.mk.injEq]
  exact ⟨h .fit, h .schedule, h .axle, h .corner, h .door, h .guard, h .constants⟩

/-- One value for each reason kind of the speed-limit map. -/
structure PerKind (α : Type) where
  steerA3 : α
  steerA4 : α
  jointJ1 : α
  jointJ2 : α
  brake : α
  levelHigh : α
  levelSlow : α
  kneelFault : α
  sync : α
  deriving DecidableEq, Repr

/-- The value of one member. -/
def PerKind.get {α : Type} (r : PerKind α) : LimitKind → α
  | .steerA3 => r.steerA3
  | .steerA4 => r.steerA4
  | .jointJ1 => r.jointJ1
  | .jointJ2 => r.jointJ2
  | .brake => r.brake
  | .levelHigh => r.levelHigh
  | .levelSlow => r.levelSlow
  | .kneelFault => r.kneelFault
  | .sync => r.sync

/-- The record with one member's value replaced. -/
def PerKind.set {α : Type} (r : PerKind α) (i : LimitKind) (v : α) : PerKind α :=
  match i with
  | .steerA3 => { r with steerA3 := v }
  | .steerA4 => { r with steerA4 := v }
  | .jointJ1 => { r with jointJ1 := v }
  | .jointJ2 => { r with jointJ2 := v }
  | .brake => { r with brake := v }
  | .levelHigh => { r with levelHigh := v }
  | .levelSlow => { r with levelSlow := v }
  | .kneelFault => { r with kneelFault := v }
  | .sync => { r with sync := v }

/-- The record that holds `f i` for each member `i`. -/
def PerKind.ofFn {α : Type} (f : LimitKind → α) : PerKind α :=
  { steerA3 := f .steerA3, steerA4 := f .steerA4, jointJ1 := f .jointJ1, jointJ2 := f .jointJ2, brake := f .brake, levelHigh := f .levelHigh, levelSlow := f .levelSlow, kneelFault := f .kneelFault, sync := f .sync }

/-- The record that holds one value throughout. -/
def PerKind.const {α : Type} (v : α) : PerKind α := PerKind.ofFn fun _ => v

/-- The members in their order. -/
def PerKind.all : List LimitKind := [.steerA3, .steerA4, .jointJ1, .jointJ2, .brake, .levelHigh, .levelSlow, .kneelFault, .sync]

@[simp] theorem PerKind.get_set_self {α : Type} (r : PerKind α) (i : LimitKind) (v : α) : (r.set i v).get i = v := by
  cases i <;> rfl

@[simp] theorem PerKind.get_set_of_ne {α : Type} (r : PerKind α) (i j : LimitKind) (v : α) (h : j ≠ i) :
    (r.set i v).get j = r.get j := by
  revert h
  cases i <;> cases j <;> simp [PerKind.set, PerKind.get]

@[simp] theorem PerKind.get_ofFn {α : Type} (f : LimitKind → α) (i : LimitKind) : (PerKind.ofFn f).get i = f i := by
  cases i <;> rfl

@[simp] theorem PerKind.get_const {α : Type} (v : α) (i : LimitKind) : (PerKind.const v).get i = v := by
  simp [PerKind.const]

theorem PerKind.mem_all (i : LimitKind) : i ∈ PerKind.all := by
  cases i <;> simp [PerKind.all]

theorem PerKind.ext_get {α : Type} {r t : PerKind α} (h : ∀ i, r.get i = t.get i) : r = t := by
  rcases r with ⟨⟩
  rcases t with ⟨⟩
  simp only [PerKind.mk.injEq]
  exact ⟨h .steerA3, h .steerA4, h .jointJ1, h .jointJ2, h .brake, h .levelHigh, h .levelSlow, h .kneelFault, h .sync⟩

end Sys2Proof.Machine
end

