-- ==== Sys2Proof/Machine/Entries.lean ====
section
/-! DEFINITION. The entries of the seven tables and their blank images (R36, R172, 11.2). Values here are as a write
leaves them, coerced; Images.lean reads and writes the byte images of R198. -/

namespace Sys2Proof.Machine

/-- The number of a signal slot. -/
abbrev SlotId := Fin 64

/-- The classes of entries that arrivals match (1.2); class EMIT is `FitRole.emit`. -/
inductive ArrivalClass where
  | sync | sample | command | status
  deriving DecidableEq, Repr

/-- The job that an accepted arrival starts (1.2, R11). -/
inductive Trigger where
  | noTrigger | odometer | steer | brake
  | levelAxle (a : Axle)
  | door (d : Door)
  | kneel
  deriving DecidableEq, Repr

/-- The role of a frame that the part sends (1.2). -/
inductive EmitKind where
  | steer (r : Rear)
  | damp (j : Joint)
  | brake (a : Axle)
  | valve (a : Axle)
  | door (d : Door)
  | chassisState
  deriving DecidableEq, Repr

/-- The operation on a forwarded frame, with the field it acts on (1.2). -/
inductive Rewrite where
  | noRewrite
  | clampFront (start width : Nat)
  | gateTraction (start width : Nat)
  deriving DecidableEq, Repr

/-- One extractor of a FIT entry (1.2, R10). -/
structure Extractor where
  start : Nat
  width : Nat
  signed : Bool
  slot : SlotId
  minimum : BitVec 32
  maximum : BitVec 32
  deriving DecidableEq, Repr

/-- The echo field of an EMIT entry (1.2, R166). -/
structure EchoSpec where
  slot : SlotId
  tolerance : Nat
  deadline : Nat
  deriving DecidableEq, Repr

/-- What an entry describes: frames that arrive on a port, or frames that the part sends (1.2, R174). -/
inductive FitRole where
  | arrival (port : Port) (cls : ArrivalClass) (rewrite : Rewrite) (trigger : Trigger) (extractors : List Extractor)
  | emit (kind : EmitKind) (echo : Option EchoSpec)
  deriving DecidableEq, Repr

/-- One used position of the FIT (1.2). -/
structure FitEntry where
  id : BitVec 29
  forward : Bool
  watch : Nat
  counter : Option Nat
  role : FitRole
  deriving DecidableEq, Repr

/-- A schedule: nine values over speed (R67). -/
abbrev Schedule := Vector Nat 9

/-- The eight schedules in the order of 11.2. -/
inductive ScheduleName where
  | limA1 | limA3 | limA4 | gainA3 | gainA4 | envJ1 | envJ2 | rateA1
  deriving DecidableEq, Repr

/-- The index of a schedule in the SCHEDULE table (11.2). -/
def ScheduleName.index : ScheduleName → Fin 8
  | .limA1 => 0
  | .limA3 => 1
  | .limA4 => 2
  | .gainA3 => 3
  | .gainA4 => 4
  | .envJ1 => 5
  | .envJ2 => 6
  | .rateA1 => 7

/-- The legal range of a schedule's values, by its index (11.2). -/
def scheduleRange (i : Fin 8) : Nat × Nat :=
  if i = 7 then (1, 2000) else if i = 3 ∨ i = 4 then (0, 1024) else if i = 5 ∨ i = 6 then (0, 10923) else (0, 4551)

/-- An entry of the AXLE table (11.2). -/
structure AxleParams where
  base : Nat
  k : Nat
  fallback : Nat
  bg : Nat
  pmax : Nat
  path : Nat
  rate : Nat
  deriving DecidableEq, Repr

/-- An entry of the CORNER table (Chapter 7, 11.2). -/
structure CornerParams where
  kerb : Bool
  rapid : Bool
  pair : Bool
  normal : Int
  high : Int
  kneel : Int
  min : Int
  max : Int
  tb : Nat
  db : Nat
  damping : Nat
  gain : Nat
  maxPulse : Nat
  window : Nat
  deriving DecidableEq, Repr

/-- The edge specification of a door (R153). -/
inductive EdgeSpec where
  | rise | fall | both | level
  deriving DecidableEq, Repr

/-- The six event kinds of a door (R162). -/
inductive DoorEvent where
  | obstruction | reversal | lockLost | lockNotProven | positionFault | roll
  deriving DecidableEq, Repr

/-- A set of event kinds: a latch mask, or an event latch (R162). -/
structure EventSet where
  obstruction : Bool
  reversal : Bool
  lockLost : Bool
  lockNotProven : Bool
  positionFault : Bool
  roll : Bool
  deriving DecidableEq, Repr

/-- The set without members. -/
def EventSet.empty : EventSet := ⟨false, false, false, false, false, false⟩

/-- Whether the set holds a kind. -/
def EventSet.has (e : EventSet) : DoorEvent → Bool
  | .obstruction => e.obstruction
  | .reversal => e.reversal
  | .lockLost => e.lockLost
  | .lockNotProven => e.lockNotProven
  | .positionFault => e.positionFault
  | .roll => e.roll

/-- The set with a kind added. -/
def EventSet.add (e : EventSet) : DoorEvent → EventSet
  | .obstruction => { e with obstruction := true }
  | .reversal => { e with reversal := true }
  | .lockLost => { e with lockLost := true }
  | .lockNotProven => { e with lockNotProven := true }
  | .positionFault => { e with positionFault := true }
  | .roll => { e with roll := true }

/-- An entry of the DOOR table (Chapter 9, 11.2). -/
structure DoorParams where
  fitted : Bool
  edge : EdgeSpec
  debounce : Nat
  maxReversals : Nat
  mask : EventSet
  lockProof : Nat
  releaseHold : Nat
  deriving DecidableEq, Repr

/-- The five gates (2.4). -/
inductive Gate where
  | doorRelease | kneelLower | kneelRaise | levelHigh | driveRelease
  deriving DecidableEq, Repr

/-- The eight predicates, in their code order (R38, R198). -/
inductive Predicate where
  | eq | lt | le | unord | ne | nlt | nle | ord
  deriving DecidableEq, Repr

/-- An entry of the GUARD table (R36). -/
structure GuardRule where
  enabled : Bool
  swap : Bool
  gate : Gate
  slot : SlotId
  predicate : Predicate
  constant : BitVec 32
  deriving DecidableEq, Repr

/-- The 32 parameters of CONSTANTS, by number (11.2). -/
inductive Param where
  | cyclePeriod | pitch | defaultUpward | vDoor | vKneel | holdPressure | haltTol | haltReleaseDemand
  | staleDecel | doorArmTimeout | kneelArmTimeout | kneelDeadline | levelDeadline | jointHyst | dampFirmSpeed
  | driveModeSpeed | levelSuspendDecel | levelSuspendAngle | highLevelMax | highLevelReturn | stretchJ1 | stretchJ2
  | automation | limitSteerA3 | limitSteerA4 | limitJointJ1 | limitJointJ2 | limitBrake | limitLevelHigh
  | limitLevelSlow | limitKneelFault | limitSync
  deriving DecidableEq, Repr

/-- The parameter's number (11.2). -/
def Param.index : Param → Fin 32
  | .cyclePeriod => 0
  | .pitch => 1
  | .defaultUpward => 2
  | .vDoor => 3
  | .vKneel => 4
  | .holdPressure => 5
  | .haltTol => 6
  | .haltReleaseDemand => 7
  | .staleDecel => 8
  | .doorArmTimeout => 9
  | .kneelArmTimeout => 10
  | .kneelDeadline => 11
  | .levelDeadline => 12
  | .jointHyst => 13
  | .dampFirmSpeed => 14
  | .driveModeSpeed => 15
  | .levelSuspendDecel => 16
  | .levelSuspendAngle => 17
  | .highLevelMax => 18
  | .highLevelReturn => 19
  | .stretchJ1 => 20
  | .stretchJ2 => 21
  | .automation => 22
  | .limitSteerA3 => 23
  | .limitSteerA4 => 24
  | .limitJointJ1 => 25
  | .limitJointJ2 => 26
  | .limitBrake => 27
  | .limitLevelHigh => 28
  | .limitLevelSlow => 29
  | .limitKneelFault => 30
  | .limitSync => 31

/-- The legal ranges of the 32 parameters, in number order (11.2). -/
def paramRanges : Vector (Int × Int) 32 :=
  #v[(5, 50), (10, 50), (0, 1), (0, 50), (1, 10), (100, 400), (0, 100), (1, 1000),
     (0, 300), (500, 5000), (500, 10000), (2000, 15000), (1000, 60000), (0, 2000), (0, 1500), (0, 1500),
     (0, 1000), (0, 4551), (0, 1500), (0, 1500), (0, 300), (0, 300), (0, 3), (0, 1500),
     (0, 1500), (0, 1500), (0, 1500), (0, 1500), (0, 1500), (0, 1500), (0, 1500), (0, 1500)]

/-- The CONSTANTS parameter that holds a kind's limit: the one whose name is the kind's after LIMIT_ (R49). -/
def LimitKind.param : LimitKind → Param
  | .steerA3 => .limitSteerA3
  | .steerA4 => .limitSteerA4
  | .jointJ1 => .limitJointJ1
  | .jointJ2 => .limitJointJ2
  | .brake => .limitBrake
  | .levelHigh => .limitLevelHigh
  | .levelSlow => .limitLevelSlow
  | .kneelFault => .limitKneelFault
  | .sync => .limitSync

/-- The place of an axle's entry in the AXLE table. -/
def axleIndex : Axle → Fin 4
  | .a1 => 0
  | .a2 => 1
  | .a3 => 2
  | .a4 => 3

/-- The place of a corner's entry in the CORNER table, in slot order. -/
def cornerIndex : Corner → Fin 8
  | .c1L => 0
  | .c1R => 1
  | .c2L => 2
  | .c2R => 3
  | .c3L => 4
  | .c3R => 5
  | .c4L => 6
  | .c4R => 7

/-- The place of a door's entry in the DOOR table. -/
def doorIndex : Door → Fin 5
  | .d1 => 0
  | .d2 => 1
  | .d3 => 2
  | .d4 => 3
  | .d5 => 4

/-- The axle under which a rear axle is known to the other blocks. -/
def rearAxle : Rear → Axle
  | .a3 => .a3
  | .a4 => .a4

/-- The left corner of an axle. -/
def leftCorner : Axle → Corner
  | .a1 => .c1L
  | .a2 => .c2L
  | .a3 => .c3L
  | .a4 => .c4L

/-- The right corner of an axle. -/
def rightCorner : Axle → Corner
  | .a1 => .c1R
  | .a2 => .c2R
  | .a3 => .c3R
  | .a4 => .c4R

/-- The axle of a corner. -/
def cornerAxle : Corner → Axle
  | .c1L => .a1
  | .c1R => .a1
  | .c2L => .a2
  | .c2R => .a2
  | .c3L => .a3
  | .c3R => .a3
  | .c4L => .a4
  | .c4R => .a4

/-- Whether a corner is its axle's right-hand one: the odd-numbered entries of CORNER (Chapter 7). -/
def isRight (i : Fin 8) : Bool := i.val % 2 == 1

/-- The staged copies of the seven tables: always images (R172). -/
structure StagedTables where
  fit : Vector (Option FitEntry) 96
  schedule : Vector Schedule 8
  axle : Vector AxleParams 4
  corner : Vector CornerParams 8
  door : Vector DoorParams 5
  guard : Vector GuardRule 16
  constants : Vector Int 32
  deriving DecidableEq, Repr

/-- The active copies, each ABSENT (`none`) or an image; the FIT as the sorted list of its entries (R172). -/
structure ActiveTables where
  fit : Option (List FitEntry)
  schedule : Option (Vector Schedule 8)
  axle : Option (Vector AxleParams 4)
  corner : Option (Vector CornerParams 8)
  door : Option (Vector DoorParams 5)
  guard : Option (Vector GuardRule 16)
  constants : Option (Vector Int 32)
  deriving DecidableEq, Repr

/-- The blank image's schedule at an index: the lowest legal values (R172). -/
def blankSchedule (i : Fin 8) : Schedule := Vector.replicate 9 (scheduleRange i).1

/-- The blank entry of axles A1 and A2 (`rear = false`) or A3 and A4 (`rear = true`) (R172, 11.2). -/
def blankAxle (rear : Bool) : AxleParams :=
  { base := 0, k := 0, fallback := 0, bg := 1, pmax := 0, path := rear.toNat, rate := rear.toNat }

/-- The blank entry of CORNER (R172). -/
def blankCorner : CornerParams :=
  { kerb := false, rapid := false, pair := false, normal := -250, high := -250, kneel := -250, min := -250, max := -250,
    tb := 1, db := 1, damping := 0, gain := 1, maxPulse := 10, window := 1 }

/-- The blank entry of DOOR (R172). -/
def blankDoor : DoorParams :=
  { fitted := false, edge := .rise, debounce := 1, maxReversals := 0, mask := .empty, lockProof := 1000,
    releaseHold := 1000 }

/-- The blank entry of GUARD (R172). -/
def blankGuard : GuardRule :=
  { enabled := false, swap := false, gate := .doorRelease, slot := 0, predicate := .eq, constant := 0x80000000 }

/-- The blank CONSTANTS: every parameter at the low end of its range (R172). -/
def blankConstants : Vector Int 32 :=
  #v[5, 10, 0, 0, 1, 100, 0, 1, 0, 500, 500, 2000, 1000, 0, 0, 0, 0, 0, 0, 0, 0, 0, 0, 0, 0, 0, 0, 0, 0, 0, 0, 0]

/-- The blank images of the seven tables (R172). -/
def StagedTables.blank : StagedTables :=
  { fit := Vector.replicate 96 none
    schedule := #v[blankSchedule 0, blankSchedule 1, blankSchedule 2, blankSchedule 3, blankSchedule 4, blankSchedule 5,
      blankSchedule 6, blankSchedule 7]
    axle := #v[blankAxle false, blankAxle false, blankAxle true, blankAxle true]
    corner := Vector.replicate 8 blankCorner
    door := Vector.replicate 5 blankDoor
    guard := Vector.replicate 16 blankGuard
    constants := blankConstants }

/-- No active copy (R172). -/
def ActiveTables.absent : ActiveTables :=
  { fit := none, schedule := none, axle := none, corner := none, door := none, guard := none, constants := none }

end Sys2Proof.Machine
end

