-- ==== Sys2Proof/Machine/Bits.lean ====
section
/-! DEFINITION. Bits and bytes of frames and images: R4's bit numbering, R185's little-endian order, the legal CAN FD
data lengths, and total access to vectors. -/

namespace Sys2Proof.Machine

/-- The number that a byte list spells, least significant byte first (R185). With it, bit `b` of the data (R4) is bit
`b` of the number. -/
def leNat : List Byte → Nat
  | [] => 0
  | b :: bs => b.toNat + 256 * leNat bs

/-- The `n` bytes of a number, least significant first (R185). -/
def leBytes : Nat → Nat → List Byte
  | 0, _ => []
  | n + 1, x => BitVec.ofNat 8 x :: leBytes n (x / 256)

/-- The field of width `w` that starts at bit `s` of the data, as an unsigned number (R4). -/
def fieldNat (data : List Byte) (s w : Nat) : Nat := leNat data / 2 ^ s % 2 ^ w

/-- An unsigned number of width `w` read as two's complement (R10, R15). -/
def signedOf (w x : Nat) : Int := if 2 * x < 2 ^ w then (x : Int) else (x : Int) - (2 ^ w : Nat)

/-- The data with the field of width `w` at bit `s` replaced by `v`, every other bit as it was (R4, R15, R16). -/
def setField (data : List Byte) (s w v : Nat) : List Byte :=
  let n := leNat data
  leBytes data.length (n % 2 ^ s + 2 ^ s * (v % 2 ^ w) + 2 ^ (s + w) * (n / 2 ^ (s + w)))

/-- The smallest legal CAN FD data length that holds `n` bytes (R187). -/
def fdLength (n : Nat) : Nat :=
  if n ≤ 8 then n else if n ≤ 12 then 12 else if n ≤ 16 then 16 else if n ≤ 20 then 20 else if n ≤ 24 then 24
  else if n ≤ 32 then 32 else if n ≤ 48 then 48 else 64

/-- The bytes padded with zero bytes to the smallest legal length (R187). -/
def padFd (bs : List Byte) : List Byte := bs ++ List.replicate (fdLength bs.length - bs.length) 0

/-- Byte `i` of an image as a number, 0 beyond its end. -/
def u8 (bs : List Byte) (i : Nat) : Nat := (bs.getD i 0).toNat

/-- The two-byte number at byte `i`. -/
def u16 (bs : List Byte) (i : Nat) : Nat := u8 bs i + 256 * u8 bs (i + 1)

/-- The four-byte number at byte `i`. -/
def u32 (bs : List Byte) (i : Nat) : Nat := u16 bs i + 65536 * u16 bs (i + 2)

/-- The two-byte signed number at byte `i`. -/
def s16 (bs : List Byte) (i : Nat) : Int := signedOf 16 (u16 bs i)

/-- The four-byte signed number at byte `i`. -/
def s32 (bs : List Byte) (i : Nat) : Int := signedOf 32 (u32 bs i)

/-- One byte of a number. -/
def byte (x : Nat) : List Byte := leBytes 1 x

/-- Two bytes of a number. -/
def half (x : Nat) : List Byte := leBytes 2 x

/-- Two bytes of a signed number. -/
def halfInt (x : Int) : List Byte := leBytes 2 (BitVec.ofInt 16 x).toNat

/-- Four bytes of a number. -/
def wordBytes (x : Nat) : List Byte := leBytes 4 x

/-- Bits as a number, the first of the list at bit 0. -/
def bitsNat : List Bool → Nat
  | [] => 0
  | b :: bs => b.toNat + 2 * bitsNat bs

/-- Whether bit `i` of a number is set. -/
def bit (x i : Nat) : Bool := x / 2 ^ i % 2 == 1

/-- A vector's element, or `d` beyond its end. -/
def vget {α : Type} {n : Nat} (v : Vector α n) (i : Nat) (d : α) : α := if h : i < n then v[i] else d

/-- A vector with element `i` replaced, unchanged where there is none. -/
def vset {α : Type} {n : Nat} (v : Vector α n) (i : Nat) (x : α) : Vector α n := if h : i < n then v.set i x else v

/-- A vector with every element mapped. -/
def vmap {α β : Type} {n : Nat} (f : α → β) (v : Vector α n) : Vector β n :=
  ⟨(v.toList.map f).toArray, by simp⟩

end Sys2Proof.Machine
end

