-- ==== Sys2Proof/Machine/Images.lean ====
section
/-! DEFINITION. Entry images (R198): how an image is checked, coerced and read into an entry (R173, R174), how an
entry is written out, and the entry sums (R175).

A reader answers `none` where the write is refused with RANGE, and otherwise the entry as coerced with the number of
coerced values. -/

namespace Sys2Proof.Machine

/-- The identifier of management requests (R5, R186). -/
def requestId (node : BitVec 3) : BitVec 29 := BitVec.ofNat 29 (0x1D5C0000 + 2 * node.toNat)

/-- The identifier of management responses (R186). -/
def responseId (node : BitVec 3) : BitVec 29 := BitVec.ofNat 29 (0x1D5C0001 + 2 * node.toNat)

/-- 1 where a value was replaced, 0 where it stands as written (R173). -/
def countIf (changed : Bool) : Nat := changed.toNat

/-- A value coerced into its legal range, and whether it was replaced. -/
def coerceNat (r : Nat × Nat) (x : Nat) : Nat × Bool := (clampNat r.1 r.2 x, decide (clampNat r.1 r.2 x ≠ x))

/-- A signed value coerced into its legal range, and whether it was replaced. -/
def coerceInt (r : Int × Int) (x : Int) : Int × Bool := (clampInt r.1 r.2 x, decide (clampInt r.1 r.2 x ≠ x))

/-! ## FIT -/

/-- Trigger codes (R198). -/
def triggerOf (n : Nat) : Option Trigger :=
  match n with
  | 0 => some .noTrigger
  | 1 => some .odometer
  | 2 => some .steer
  | 3 => some .brake
  | 4 => some (.levelAxle .a1)
  | 5 => some (.levelAxle .a2)
  | 6 => some (.levelAxle .a3)
  | 7 => some (.levelAxle .a4)
  | 8 => some (.door .d1)
  | 9 => some (.door .d2)
  | 10 => some (.door .d3)
  | 11 => some (.door .d4)
  | 12 => some (.door .d5)
  | 13 => some .kneel
  | _ => none

/-- Trigger codes (R198). -/
def triggerCode : Trigger → Nat
  | .noTrigger => 0
  | .odometer => 1
  | .steer => 2
  | .brake => 3
  | .levelAxle a => 4 + (axleIndex a).val
  | .door d => 8 + (doorIndex d).val
  | .kneel => 13

/-- Emit kind codes (R198). -/
def emitKindOf (n : Nat) : Option EmitKind :=
  match n with
  | 0 => some (.steer .a3)
  | 1 => some (.steer .a4)
  | 2 => some (.damp .j1)
  | 3 => some (.damp .j2)
  | 4 => some (.brake .a1)
  | 5 => some (.brake .a2)
  | 6 => some (.brake .a3)
  | 7 => some (.brake .a4)
  | 8 => some (.valve .a1)
  | 9 => some (.valve .a2)
  | 10 => some (.valve .a3)
  | 11 => some (.valve .a4)
  | 12 => some (.door .d1)
  | 13 => some (.door .d2)
  | 14 => some (.door .d3)
  | 15 => some (.door .d4)
  | 16 => some (.door .d5)
  | 17 => some .chassisState
  | _ => none

/-- Emit kind codes (R198). -/
def emitKindCode : EmitKind → Nat
  | .steer .a3 => 0
  | .steer .a4 => 1
  | .damp .j1 => 2
  | .damp .j2 => 3
  | .brake a => 4 + (axleIndex a).val
  | .valve a => 8 + (axleIndex a).val
  | .door d => 12 + (doorIndex d).val
  | .chassisState => 17

/-- The echo record that an emit kind may have: STEER and BRAKE kinds only (R166, R174). -/
def EmitKind.echoKind : EmitKind → Option EchoKind
  | .steer r => some (.steer r)
  | .damp _ => none
  | .brake a => some (.brake a)
  | .valve _ => none
  | .door _ => none
  | .chassisState => none

/-- Class codes of arrival entries (R198). -/
def arrivalClassOf (n : Nat) : Option ArrivalClass :=
  match n with
  | 0 => some .sync
  | 1 => some .sample
  | 2 => some .command
  | 3 => some .status
  | _ => none

/-- Class codes of arrival entries (R198). -/
def arrivalClassCode : ArrivalClass → Nat
  | .sync => 0
  | .sample => 1
  | .command => 2
  | .status => 3

/-- The slot of a number below 64; any other number is an illegal slot (R173). -/
def slotOf (n : Nat) : Option SlotId := if h : n < 64 then some ⟨n, h⟩ else none

/-- A field placed in the data bytes: its width is at least `lo` and at most 32, and it ends at or below bit 511
(R174). -/
def fieldLegal (lo start width : Nat) : Bool := decide (lo ≤ width ∧ width ≤ 32 ∧ start + width ≤ 512)

/-- Bytes 5 to 7: the rewrite with its field. A NONE with a placed field, and bit 15, are set unused bits (R198; log
entry 11). -/
def rewriteOf (code field : Nat) : Option Rewrite :=
  let start := field % 512
  let width := field / 512 % 64
  if 32768 ≤ field then none else
    match code with
    | 0 => if field = 0 then some .noRewrite else none
    | 1 => if fieldLegal 14 start width then some (.clampFront start width) else none
    | 2 => if fieldLegal 1 start width then some (.gateTraction start width) else none
    | _ => none

/-- The code of a rewrite (R198). -/
def rewriteCode : Rewrite → Nat
  | .noRewrite => 0
  | .clampFront _ _ => 1
  | .gateTraction _ _ => 2

/-- The field word of a rewrite (R198). -/
def rewriteField : Rewrite → Nat
  | .noRewrite => 0
  | .clampFront start width => start + 512 * width
  | .gateTraction start width => start + 512 * width

/-- Bytes 10 and 11: the counter's start bit, 0 to 508, and 0 where there is no counter (1.2, R198; log entry 11). -/
def counterOf (present : Bool) (start : Nat) : Option (Option Nat) :=
  if present then (if start ≤ 508 then some (some start) else none) else if start = 0 then some none else none

/-- The watch period as coerced: 1 to 2,550 upward to a multiple of 5, more to 2,550, and a SYNC entry's 0 to 100
(1.2, R173). -/
def coerceWatch (sync : Bool) (w : Nat) : Nat :=
  if w = 0 then (if sync then 100 else 0) else if 2550 ≤ w then 2550 else (w + 4) / 5 * 5

/-- One extractor, from its 11 bytes (R198). -/
def extractorOf (bs : List Byte) : Option Extractor :=
  let field := u16 bs 0
  let start := field % 512
  let width := field / 512 % 64
  match slotOf (u8 bs 2) with
  | none => none
  | some slot =>
    if fieldLegal 1 start width then
      some { start, width, signed := bit field 15, slot, minimum := BitVec.ofNat 32 (u32 bs 3),
             maximum := BitVec.ofNat 32 (u32 bs 7) }
    else none

/-- `n` extractors in turn, 11 bytes each. -/
def extractorsOf : Nat → List Byte → Option (List Extractor)
  | 0, _ => some []
  | n + 1, bs =>
    match extractorOf bs, extractorsOf n (bs.drop 11) with
    | some e, some es => some (e :: es)
    | _, _ => none

/-- The bytes of one extractor (R198). -/
def extractorBytes (e : Extractor) : List Byte :=
  half (e.start + 512 * e.width + 32768 * e.signed.toNat) ++ byte e.slot.val ++ wordBytes e.minimum.toNat
    ++ wordBytes e.maximum.toNat

/-- Whether every byte is 0. -/
def allZero (bs : List Byte) : Bool := bs.all (· == 0)

/-- The role of an entry of port U or D, from bytes 5 to 57 of its image. -/
def arrivalRoleOf (port : Port) (cls : ArrivalClass) (bs : List Byte) : Option FitRole :=
  match rewriteOf (u8 bs 5) (u16 bs 6), triggerOf (u8 bs 12), extractorsOf (u8 bs 13) (bs.drop 14) with
  | some rewrite, some trigger, some extractors =>
    if u8 bs 13 ≤ 4 ∧ allZero (bs.drop (14 + 11 * u8 bs 13)) ∧ (cls = .sync → port = .u)
        ∧ (rewrite ≠ .noRewrite → cls = .command) then
      some (.arrival port cls rewrite trigger extractors)
    else none
  | _, _, _ => none

/-- The echo field of an EMIT entry, coerced, and the number of coerced values: bytes 14 to 18 (R166, R198). -/
def echoOf (bs : List Byte) : Option (EchoSpec × Nat) :=
  match slotOf (u8 bs 14) with
  | none => none
  | some slot =>
    let tol := coerceNat (0, 1000) (u16 bs 15)
    let dl := coerceNat (10, 2550) (u16 bs 17)
    some ({ slot, tolerance := tol.1, deadline := dl.1 }, countIf tol.2 + countIf dl.2)

/-- The role of an EMIT entry, from bytes 5 to 57 of its image, and the number of coerced values. -/
def emitRoleOf (hasEcho : Bool) (bs : List Byte) : Option (FitRole × Nat) :=
  match emitKindOf (u8 bs 12) with
  | none => none
  | some kind =>
    if rewriteOf (u8 bs 5) (u16 bs 6) ≠ some .noRewrite ∨ u8 bs 13 ≠ 0 then none
    else if hasEcho then
      match echoOf bs with
      | none => none
      | some (echo, n) =>
        if kind.echoKind ≠ none ∧ allZero (bs.drop 19) then some (.emit kind (some echo), n) else none
    else if allZero (bs.drop 14) then some (.emit kind none, 0) else none

/-- A FIT image read, checked and coerced (R173, R174, R198): `some (none, 0)` is UNUSED. -/
def fitOf (node : BitVec 3) (bs : List Byte) : Option (Option FitEntry × Nat) :=
  let b0 := u8 bs 0
  let cls := b0 / 4 % 8
  let id := u32 bs 1
  let forward := bit b0 5
  let hasEcho := bit b0 7
  if b0 % 4 = 3 then (if b0 = 3 then some (none, 0) else none)
  else if 2 ^ 29 ≤ id then none
  else
    match counterOf (bit b0 6) (u16 bs 10) with
    | none => none
    | some counter =>
      if b0 % 4 = 2 then
        let watch := coerceWatch false (u16 bs 8)
        match emitRoleOf hasEcho bs with
        | none => none
        | some (role, n) =>
          if cls = 4 ∧ BitVec.ofNat 29 id ≠ responseId node then
            some (some { id := BitVec.ofNat 29 id, forward, watch, counter, role },
                  n + countIf (decide (watch ≠ u16 bs 8)))
          else none
      else
        match arrivalClassOf cls with
        | none => none
        | some c =>
          let watch := coerceWatch (decide (c = .sync)) (u16 bs 8)
          match arrivalRoleOf (if b0 % 4 = 0 then .u else .d) c bs with
          | none => none
          | some role =>
            if hasEcho then none
            else some (some { id := BitVec.ofNat 29 id, forward, watch, counter, role },
                       countIf (decide (watch ≠ u16 bs 8)))

/-- The image of a FIT position (R198): 58 bytes. -/
def fitBytes : Option FitEntry → List Byte
  | none => byte 3 ++ List.replicate 57 0
  | some e =>
    match e.role with
    | .arrival port cls rewrite trigger extractors =>
      let body := extractors.flatMap extractorBytes
      byte ((match port with | .u => 0 | .d => 1) + 4 * arrivalClassCode cls + 32 * e.forward.toNat
            + 64 * e.counter.isSome.toNat)
        ++ wordBytes e.id.toNat ++ byte (rewriteCode rewrite) ++ half (rewriteField rewrite) ++ half e.watch
        ++ half (e.counter.getD 0) ++ byte (triggerCode trigger) ++ byte extractors.length
        ++ body ++ List.replicate (44 - body.length) 0
    | .emit kind echo =>
      let body := match echo with
        | none => []
        | some x => byte x.slot.val ++ half x.tolerance ++ half x.deadline
      byte (2 + 16 + 32 * e.forward.toNat + 64 * e.counter.isSome.toNat + 128 * echo.isSome.toNat)
        ++ wordBytes e.id.toNat ++ byte 0 ++ half 0 ++ half e.watch
        ++ half (e.counter.getD 0) ++ byte (emitKindCode kind) ++ byte 0
        ++ body ++ List.replicate (44 - body.length) 0

/-! ## SCHEDULE, AXLE, CORNER -/

/-- A schedule image read and coerced. Two-byte values that R198 does not mark signed are unsigned (log entry 16). -/
def scheduleOf (i : Fin 8) (bs : List Byte) : Schedule × Nat :=
  let c := fun j => coerceNat (scheduleRange i) (u16 bs (2 * j))
  (#v[(c 0).1, (c 1).1, (c 2).1, (c 3).1, (c 4).1, (c 5).1, (c 6).1, (c 7).1, (c 8).1],
   countIf (c 0).2 + countIf (c 1).2 + countIf (c 2).2 + countIf (c 3).2 + countIf (c 4).2 + countIf (c 5).2
     + countIf (c 6).2 + countIf (c 7).2 + countIf (c 8).2)

/-- The image of a schedule. -/
def scheduleBytes (y : Schedule) : List Byte := y.toList.flatMap half

/-- The legal ranges of PATH and RATE: 0 for A1 and A2 (11.2). -/
def pathRange (i : Fin 4) : Nat × Nat := if i.val < 2 then (0, 0) else (1, 12500)

/-- The legal range of RATE (11.2). -/
def rateRange (i : Fin 4) : Nat × Nat := if i.val < 2 then (0, 0) else (1, 500)

/-- An AXLE image read and coerced. -/
def axleOf (i : Fin 4) (bs : List Byte) : AxleParams × Nat :=
  let base := coerceNat (0, 4000) (u16 bs 0)
  let k := coerceNat (0, 1024) (u16 bs 2)
  let fallback := coerceNat (0, 4000) (u16 bs 4)
  let bg := coerceNat (1, 255) (u8 bs 6)
  let pmax := coerceNat (0, 1000) (u16 bs 7)
  let path := coerceNat (pathRange i) (u16 bs 9)
  let rate := coerceNat (rateRange i) (u16 bs 11)
  ({ base := base.1, k := k.1, fallback := fallback.1, bg := bg.1, pmax := pmax.1, path := path.1, rate := rate.1 },
   countIf base.2 + countIf k.2 + countIf fallback.2 + countIf bg.2 + countIf pmax.2 + countIf path.2 + countIf rate.2)

/-- The image of an AXLE entry. -/
def axleBytes (a : AxleParams) : List Byte :=
  half a.base ++ half a.k ++ half a.fallback ++ byte a.bg ++ half a.pmax ++ half a.path ++ half a.rate

/-- The window coerced: the next of 1, 4 and 16 above it, or 16 (11.2). -/
def coerceWindow (n : Nat) : Nat := if n ≤ 1 then 1 else if n ≤ 4 then 4 else 16

/-- A CORNER image read and coerced: MIN and MAX first, then the targets into MIN..MAX (11.2). A right-hand entry's
pair flag is coerced to CLEAR. `none` where an unused bit of byte 0 is set. -/
def cornerOf (i : Fin 8) (bs : List Byte) : Option (CornerParams × Nat) :=
  let flags := u8 bs 0
  let lo := coerceInt (-250, 250) (s16 bs 7)
  let hi := coerceInt (lo.1, 250) (s16 bs 9)
  let normal := coerceInt (lo.1, hi.1) (s16 bs 1)
  let high := coerceInt (lo.1, hi.1) (s16 bs 3)
  let kneel := coerceInt (lo.1, hi.1) (s16 bs 5)
  let tb := coerceNat (1, 20) (u8 bs 11)
  let db := coerceNat (tb.1, 80) (u8 bs 12)
  let damping := coerceNat (0, 15) (u8 bs 13)
  let gain := coerceNat (1, 32) (u8 bs 14)
  let maxPulse := coerceNat (10, 250) (u8 bs 15)
  let window := coerceWindow (u8 bs 16)
  let pair := bit flags 2 && !isRight i
  if 8 ≤ flags then none
  else
    some ({ kerb := bit flags 0, rapid := bit flags 1, pair, normal := normal.1, high := high.1, kneel := kneel.1,
            min := lo.1, max := hi.1, tb := tb.1, db := db.1, damping := damping.1, gain := gain.1,
            maxPulse := maxPulse.1, window },
          countIf lo.2 + countIf hi.2 + countIf normal.2 + countIf high.2 + countIf kneel.2 + countIf tb.2 + countIf db.2
            + countIf damping.2 + countIf gain.2 + countIf maxPulse.2 + countIf (decide (window ≠ u8 bs 16))
            + countIf (pair != bit flags 2))

/-- The image of a CORNER entry. -/
def cornerBytes (c : CornerParams) : List Byte :=
  byte (bitsNat [c.kerb, c.rapid, c.pair]) ++ halfInt c.normal ++ halfInt c.high ++ halfInt c.kneel ++ halfInt c.min
    ++ halfInt c.max ++ byte c.tb ++ byte c.db ++ byte c.damping ++ byte c.gain ++ byte c.maxPulse ++ byte c.window

/-! ## DOOR, GUARD, CONSTANTS -/

/-- Edge specification codes (R198). -/
def edgeOf (n : Nat) : EdgeSpec :=
  match n with
  | 0 => .rise
  | 1 => .fall
  | 2 => .both
  | _ => .level

/-- Edge specification codes (R198). -/
def edgeCode : EdgeSpec → Nat
  | .rise => 0
  | .fall => 1
  | .both => 2
  | .level => 3

/-- A set of event kinds from its bits (R198). -/
def eventSetOf (n : Nat) : EventSet := ⟨bit n 0, bit n 1, bit n 2, bit n 3, bit n 4, bit n 5⟩

/-- The bits of a set of event kinds (R198). -/
def eventSetBits (e : EventSet) : Nat :=
  bitsNat [e.obstruction, e.reversal, e.lockLost, e.lockNotProven, e.positionFault, e.roll]

/-- A DOOR image read and coerced; `none` where an unused bit is set. -/
def doorOf (bs : List Byte) : Option (DoorParams × Nat) :=
  let flags := u8 bs 0
  let debounce := coerceNat (1, 15) (u8 bs 1)
  let maxReversals := coerceNat (0, 7) (u8 bs 2)
  let lockProof := coerceNat (1000, 15000) (u16 bs 4)
  let releaseHold := coerceNat (1000, 60000) (u16 bs 6)
  if 8 ≤ flags ∨ 64 ≤ u8 bs 3 then none
  else
    some ({ fitted := bit flags 0, edge := edgeOf (flags / 2 % 4), debounce := debounce.1,
            maxReversals := maxReversals.1, mask := eventSetOf (u8 bs 3), lockProof := lockProof.1,
            releaseHold := releaseHold.1 },
          countIf debounce.2 + countIf maxReversals.2 + countIf lockProof.2 + countIf releaseHold.2)

/-- The image of a DOOR entry. -/
def doorBytes (d : DoorParams) : List Byte :=
  byte (d.fitted.toNat + 2 * edgeCode d.edge) ++ byte d.debounce ++ byte d.maxReversals ++ byte (eventSetBits d.mask)
    ++ half d.lockProof ++ half d.releaseHold

/-- Gate codes (R198). -/
def gateOf (n : Nat) : Option Gate :=
  match n with
  | 0 => some .doorRelease
  | 1 => some .kneelLower
  | 2 => some .kneelRaise
  | 3 => some .levelHigh
  | 4 => some .driveRelease
  | _ => none

/-- Gate codes (R198). -/
def gateCode : Gate → Nat
  | .doorRelease => 0
  | .kneelLower => 1
  | .kneelRaise => 2
  | .levelHigh => 3
  | .driveRelease => 4

/-- Predicate codes (R198). -/
def predicateOf (n : Nat) : Option Predicate :=
  match n with
  | 0 => some .eq
  | 1 => some .lt
  | 2 => some .le
  | 3 => some .unord
  | 4 => some .ne
  | 5 => some .nlt
  | 6 => some .nle
  | 7 => some .ord
  | _ => none

/-- Predicate codes (R198). -/
def predicateCode : Predicate → Nat
  | .eq => 0
  | .lt => 1
  | .le => 2
  | .unord => 3
  | .ne => 4
  | .nlt => 5
  | .nle => 6
  | .ord => 7

/-- A GUARD image read; `none` where an enumeration, the slot or an unused bit is illegal. -/
def guardOf (bs : List Byte) : Option (GuardRule × Nat) :=
  let flags := u8 bs 0
  match gateOf (u8 bs 1), slotOf (u8 bs 2), predicateOf (u8 bs 3) with
  | some gate, some slot, some predicate =>
    if 4 ≤ flags then none
    else some ({ enabled := bit flags 0, swap := bit flags 1, gate, slot, predicate,
                 constant := BitVec.ofNat 32 (u32 bs 4) }, 0)
  | _, _, _ => none

/-- The image of a GUARD entry. -/
def guardBytes (g : GuardRule) : List Byte :=
  byte (bitsNat [g.enabled, g.swap]) ++ byte (gateCode g.gate) ++ byte g.slot.val ++ byte (predicateCode g.predicate)
    ++ wordBytes g.constant.toNat

/-- A CONSTANTS image read and coerced. -/
def constantOf (i : Fin 32) (bs : List Byte) : Int × Nat :=
  let c := coerceInt paramRanges[i] (s32 bs 0)
  (c.1, countIf c.2)

/-- The image of a CONSTANTS parameter. -/
def constantBytes (x : Int) : List Byte := wordBytes (BitVec.ofInt 32 x).toNat

/-! ## The tables by code -/

/-- Table codes (12.6). -/
def tableOf (n : Nat) : Option TableName :=
  match n with
  | 0 => some .fit
  | 1 => some .schedule
  | 2 => some .axle
  | 3 => some .corner
  | 4 => some .door
  | 5 => some .guard
  | 6 => some .constants
  | _ => none

/-- The length of one entry image (12.7). -/
def imageSize : TableName → Nat
  | .fit => 58
  | .schedule => 18
  | .axle => 13
  | .corner => 17
  | .door => 8
  | .guard => 8
  | .constants => 4

/-- The number of entries (R187, 11.1). -/
def tableSize : TableName → Nat
  | .fit => 96
  | .schedule => 8
  | .axle => 4
  | .corner => 8
  | .door => 5
  | .guard => 16
  | .constants => 32

/-- The largest count of a READ or WRITE (R191). -/
def maxCount : TableName → Nat
  | .fit => 1
  | .schedule => 3
  | .axle => 4
  | .corner => 3
  | .door => 7
  | .guard => 7
  | .constants => 14

/-- The image that a READ of the staged copy returns for position `i`. -/
def stagedImage (st : StagedTables) (t : TableName) (i : Nat) : List Byte :=
  match t with
  | .fit => fitBytes (vget st.fit i none)
  | .schedule => scheduleBytes (vget st.schedule i (blankSchedule 0))
  | .axle => axleBytes (vget st.axle i (blankAxle false))
  | .corner => cornerBytes (vget st.corner i blankCorner)
  | .door => doorBytes (vget st.door i blankDoor)
  | .guard => guardBytes (vget st.guard i blankGuard)
  | .constants => constantBytes (vget st.constants i 0)

/-- The image that a READ of the active copy returns for position `i`, and none where the copy is ABSENT. A position at
or beyond the entries of the active FIT reads as UNUSED (R191). -/
def activeImage (at' : ActiveTables) (t : TableName) (i : Nat) : Option (List Byte) :=
  match t with
  | .fit => at'.fit.map fun es => fitBytes es[i]?
  | .schedule => at'.schedule.map fun v => scheduleBytes (vget v i (blankSchedule 0))
  | .axle => at'.axle.map fun v => axleBytes (vget v i (blankAxle false))
  | .corner => at'.corner.map fun v => cornerBytes (vget v i blankCorner)
  | .door => at'.door.map fun v => doorBytes (vget v i blankDoor)
  | .guard => at'.guard.map fun v => guardBytes (vget v i blankGuard)
  | .constants => at'.constants.map fun v => constantBytes (vget v i 0)

/-- One image checked, coerced and written to position `i` of a staged copy, with the number of coerced values;
`none` for RANGE (R173, R174). -/
def writeImage (node : BitVec 3) (st : StagedTables) (t : TableName) (i : Nat) (bs : List Byte) :
    Option (StagedTables × Nat) :=
  match t with
  | .fit => (fitOf node bs).map fun r => ({ st with fit := vset st.fit i r.1 }, r.2)
  | .schedule =>
    if h : i < 8 then
      let r := scheduleOf ⟨i, h⟩ bs
      some ({ st with schedule := st.schedule.set i r.1 }, r.2)
    else none
  | .axle =>
    if h : i < 4 then
      let r := axleOf ⟨i, h⟩ bs
      some ({ st with axle := st.axle.set i r.1 }, r.2)
    else none
  | .corner =>
    if h : i < 8 then (cornerOf ⟨i, h⟩ bs).map fun r => ({ st with corner := st.corner.set i r.1 }, r.2) else none
  | .door => (doorOf bs).map fun r => ({ st with door := vset st.door i r.1 }, r.2)
  | .guard => (guardOf bs).map fun r => ({ st with guard := vset st.guard i r.1 }, r.2)
  | .constants =>
    if h : i < 32 then
      let r := constantOf ⟨i, h⟩ bs
      some ({ st with constants := st.constants.set i r.1 }, r.2)
    else none

/-! ## Entry sums -/

/-- The sum of an image's bytes. -/
def byteSum : List Byte → Nat
  | [] => 0
  | b :: bs => b.toNat + byteSum bs

/-- The check of one staged entry (R193): the bytes of its image, and 0 for an UNUSED FIT position (R175). -/
def entryCheck (st : StagedTables) (t : TableName) (i : Nat) : Nat :=
  if t = .fit ∧ vget st.fit i none = none then 0 else byteSum (stagedImage st t i) % 65536

/-- The sum over positions `0` to `n - 1`. -/
def sumChecks (st : StagedTables) (t : TableName) : Nat → Nat
  | 0 => 0
  | n + 1 => sumChecks st t n + entryCheck st t n

/-- The entry sum of a staged copy (R175). -/
def entrySum (st : StagedTables) (t : TableName) : BitVec 16 := BitVec.ofNat 16 (sumChecks st t (tableSize t))

end Sys2Proof.Machine
end

