-- ==== Sys2Proof/Machine/State.lean ====
section
/-! DEFINITION. The state of the part, block by block, as plain data, and its value right after power-on. -/

namespace Sys2Proof.Machine

/-- A timer: idle, or running with this many milliseconds left; one at 0 is due and its expiry has not been taken yet
(00_scope.md, 6.5; log entries 2 and 3). -/
abbrev Timer := Option Nat

/-! ## Links and egress queues -/

/-- The link state of a port (R1). -/
inductive LinkState where
  | active | busOff
  deriving DecidableEq, Repr

/-- The two egress queues of a port (R17). -/
inductive QueueKind where
  | priority | ordinary
  deriving DecidableEq, Repr

/-- The offer record of a port's arbiter (R20). `content` is what the link is transmitting; the queue may hold newer
content for the same frame, which is then `renewed` (R19). After an in-band reset an offer awaits its completion and
names no queued frame (R26). -/
inductive Offer where
  | empty
  | onOffer (queue : QueueKind) (content : Frame) (renewed : Bool)
  | awaiting (content : Frame)
  deriving DecidableEq, Repr

/-- One port: its link state, its two queues (oldest frame first) and its offer record. -/
structure PortState where
  link : LinkState
  priority : List Frame
  ordinary : List Frame
  offer : Offer
  deriving DecidableEq, Repr

/-! ## Frame path -/

/-- What the classifier keeps for one entry of the active FIT: the counter record (R9) and the watch timer (R12). -/
structure EntryRecord where
  counter : Option (BitVec 4)
  watch : Timer
  deriving DecidableEq, Repr

/-- The sync state (1.8). -/
inductive SyncState where
  | followingSync | freeRun
  deriving DecidableEq, Repr

/-- The cycle mark source (1.8). -/
structure CycleSource where
  sync : SyncState
  timer : Timer
  syncPosted : Bool
  deriving DecidableEq, Repr

/-- The frame path fault set (R25). -/
structure PathFaults where
  portBusOffU : Bool
  portBusOffD : Bool
  shortFrame : Bool
  counterRepeat : Bool
  counterJump : Bool
  plausibility : Bool
  sampleLost : Bool
  commandLost : Bool
  statusLost : Bool
  syncLost : Bool
  egressDrop : Bool
  deriving DecidableEq, Repr

/-- The frame path: the records of the active FIT's entries by their place in it, the cycle mark source and the fault
set. -/
structure FramePath where
  entries : Vector EntryRecord 96
  cycle : CycleSource
  faults : PathFaults
  deriving DecidableEq, Repr

/-! ## Signal store -/

/-- The validity of a slot (R27). -/
inductive Validity where
  | never | valid | stale
  deriving DecidableEq, Repr

/-- One slot of the signal store (R27); the source is the place of a FIT entry in the active FIT. -/
structure SignalSlot where
  value : SlotWord
  validity : Validity
  source : Option (Fin 96)
  deriving DecidableEq, Repr

/-! ## Interlock board -/

/-- A member of the reason sets (3.1). -/
inductive Reason where
  | door (d : Door)
  | kneel
  deriving DecidableEq, Repr

/-- A reason set (R42). -/
structure ReasonSet where
  doors : PerDoor Bool
  kneel : Bool
  deriving DecidableEq, Repr

/-- The board's fault set (R58). -/
structure BoardFaults where
  egressDrop : Bool
  deriving DecidableEq, Repr

/-- The interlock board (3.7). The speed-limit map holds at most one limit per kind (R49). -/
structure Board where
  haltSet : ReasonSet
  driveInhibit : ReasonSet
  haltLatch : Bool
  haltConfirmed : Bool
  limits : PerKind (Option Nat)
  stretch : PerAxle Nat
  faults : BoardFaults
  deriving DecidableEq, Repr

/-! ## Track memory and steering unit -/

/-- A track mark (R60). -/
structure TrackMark where
  position : Cm
  heading : Angle
  deriving DecidableEq, Repr

/-- The track memory, oldest mark first (R60). -/
structure Track where
  marks : List TrackMark
  lastOdo : Option Cm
  nextPos : Cm
  deriving DecidableEq, Repr

/-- The mode of a rear axle (4.3). -/
inductive AxleMode where
  | centre | follow | locked
  deriving DecidableEq, Repr

/-- The record of a rear axle (R68). -/
structure RearRecord where
  mode : AxleMode
  lastAngle : Int
  deriving DecidableEq, Repr

/-- The steering unit's fault set (R86). -/
structure SteeringFaults where
  trackBroken : Bool
  limitEscape : Bool
  egressDrop : Bool
  deriving DecidableEq, Repr

/-- The steering unit with the front-axle limiter's record (R68, R83). -/
structure Steering where
  rear : PerRear RearRecord
  limiter : Option Int
  faults : SteeringFaults
  deriving DecidableEq, Repr

/-! ## Joint unit -/

/-- The envelope state of a joint (R87). -/
inductive Envelope where
  | inside | breach
  deriving DecidableEq, Repr

/-- A damping level (R87). -/
inductive Damping where
  | soft | firm | full
  deriving DecidableEq, Repr

/-- The record of a joint (R87). -/
structure JointRecord where
  envelope : Envelope
  damping : Damping
  deriving DecidableEq, Repr

/-- The joint unit's fault set (R97). -/
structure JointFaults where
  breachJ1 : Bool
  breachJ2 : Bool
  egressDrop : Bool
  deriving DecidableEq, Repr

/-- The joint unit. -/
structure Joints where
  records : PerJoint JointRecord
  faults : JointFaults
  deriving DecidableEq, Repr

/-! ## Brake distributor -/

/-- The source of a computed load (R98); `unknown` is NONE. -/
inductive LoadSource where
  | pressures | fallback | snapshot | unknown
  deriving DecidableEq, Repr

/-- A kneel load snapshot, with the mark of R114 whether any of its loads was a FALLBACK load. -/
structure Snapshot where
  loads : PerAxle Nat
  anyFallback : Bool
  deriving DecidableEq, Repr

/-- The distributor's fault set (R114). -/
structure BrakeFaults where
  loadFallback : Bool
  demandStale : Bool
  egressDrop : Bool
  deriving DecidableEq, Repr

/-- The brake distributor (R98). -/
structure Brakes where
  sources : PerAxle LoadSource
  snapshot : Option Snapshot
  faults : BrakeFaults
  deriving DecidableEq, Repr

/-! ## Level controller -/

/-- Where a corner's target comes from (R115, R120). -/
inductive TargetSource where
  | rideLevel | kneel
  | frozen (height : Int)
  deriving DecidableEq, Repr

/-- The mode of a corner (R115). -/
inductive CornerMode where
  | idle | delta | rapid | suspended | fault
  deriving DecidableEq, Repr

/-- The record of a corner (R115): the ring holds the last samples, oldest first. -/
structure CornerRecord where
  ring : List Int
  average : Option Int
  target : TargetSource
  mode : CornerMode
  inBand : Bool
  slow : Bool
  activeSince : Timer
  deriving DecidableEq, Repr

/-- The ride level (R116). -/
inductive RideLevel where
  | normal | high
  deriving DecidableEq, Repr

/-- The level controller's fault set (R134). -/
structure LevelFaults where
  heightStale : Bool
  levelSlow : Bool
  egressDrop : Bool
  deriving DecidableEq, Repr

/-- The level controller. -/
structure Levels where
  corners : PerCorner CornerRecord
  ride : RideLevel
  faults : LevelFaults
  deriving DecidableEq, Repr

/-! ## Kneel sequencer -/

/-- The kneel state (R135). -/
inductive KneelState where
  | ride | arming | lowering | knelt | paused | raising
  deriving DecidableEq, Repr

/-- The sequencer's fault set (R148). -/
structure KneelFaults where
  armTimeout : Bool
  kneelTimeout : Bool
  raiseTimeout : Bool
  deriving DecidableEq, Repr

/-- The kneel sequencer (R135). -/
structure Kneel where
  state : KneelState
  armTimer : Timer
  deadline : Timer
  faultPosted : Bool
  faults : KneelFaults
  deriving DecidableEq, Repr

/-! ## Door interlock unit -/

/-- The state of a door (R149). -/
inductive DoorState where
  | unproven | locked | released | opening | open | closing | reversing | absent
  deriving DecidableEq, Repr

/-- A door position (2.1, slots 32 to 36). -/
inductive DoorPosition where
  | closedLocked | closedUnlocked | moving | fullOpen | fault
  deriving DecidableEq, Repr

/-- A command to a door drive (Chapter 9). -/
inductive DoorCommand where
  | hold | lock | unlock | open | close
  deriving DecidableEq, Repr

/-- The record of a door (R149). -/
structure DoorRecord where
  state : DoorState
  armed : Bool
  armTimer : Timer
  candidate : Option DoorPosition
  debounce : Nat
  settled : Option DoorPosition
  lastEdge : Option Bool
  reversals : Nat
  latch : EventSet
  lockProof : Timer
  releaseHold : Timer
  lastCommand : Option DoorCommand
  deriving DecidableEq, Repr

/-- The door unit's fault set (R164). -/
structure DoorFaults where
  armTimeout : Bool
  obstructed : Bool
  signalLost : Bool
  egressDrop : Bool
  deriving DecidableEq, Repr

/-- The door interlock unit. -/
structure Doors where
  records : PerDoor DoorRecord
  faults : DoorFaults
  deriving DecidableEq, Repr

/-! ## Echo supervisor -/

/-- The state of an echo record (R166). -/
inductive EchoState where
  | agree | disagree
  deriving DecidableEq, Repr

/-- An echo record (R166). A kind whose EMIT entry has no echo has no record; its place keeps the empty one. -/
structure EchoRecord where
  newest : Option Int
  previous : Option Int
  mismatch : Nat
  agreement : Nat
  state : EchoState
  timer : Timer
  deriving DecidableEq, Repr

/-- The supervisor's fault set (R171). -/
structure EchoFaults where
  steerDisagree : Bool
  axleDisagree : Bool
  deriving DecidableEq, Repr

/-- The echo supervisor. -/
structure Echoes where
  records : PerEcho EchoRecord
  faults : EchoFaults
  deriving DecidableEq, Repr

/-! ## Table store -/

/-- The part state (R183). -/
inductive PartState where
  | configuring | run
  deriving DecidableEq, Repr

/-- The result of the last commit outcome (R172). -/
inductive CommitResult where
  | noResult | applied | refusedNotStill | cancelled
  deriving DecidableEq, Repr

/-- The last commit outcome (R172). -/
structure CommitOutcome where
  tables : PerTable Bool
  result : CommitResult
  epochs : PerTable (BitVec 4)
  deriving DecidableEq, Repr

/-- The table store (R172); `waiting` is the pending set. -/
structure TableStore where
  staged : StagedTables
  active : ActiveTables
  sums : PerTable (BitVec 16)
  waiting : PerTable Bool
  hold : Bool
  epochs : PerTable (BitVec 4)
  outcome : CommitOutcome
  partState : PartState
  deriving DecidableEq, Repr

/-! ## Management agent -/

/-- The advance mode of the table cursor (R190). -/
inductive AdvanceMode where
  | table | group | fixed
  deriving DecidableEq, Repr

/-- The table cursor (R190). -/
structure Cursor where
  table : TableName
  index : Nat
  mode : AdvanceMode
  deriving DecidableEq, Repr

/-- The agent's fault set (R189). -/
structure AgentFaults where
  egressDrop : Bool
  mgmtDrop : Bool
  deriving DecidableEq, Repr

/-- The management agent. The reset-arm record is ARMED exactly while its timer runs (R196). -/
structure Agent where
  cursor : Cursor
  resetArm : Timer
  faults : AgentFaults
  deriving DecidableEq, Repr

/-! ## The part -/

/-- The state of the K524, and the queue of the commands that are waiting. -/
structure State where
  /-- The node number read from the strap pins (R197). -/
  node : BitVec 3
  /-- The two ports: link states, egress queues, offer records (R1, R17, R20). -/
  ports : PerPort PortState
  /-- The classifier's records, the cycle mark source and the frame path fault set (Chapter 1). -/
  path : FramePath
  /-- The signal store (R27). -/
  slots : Vector SignalSlot 64
  /-- The interlock board (Chapter 3). -/
  board : Board
  /-- The track memory (R60). -/
  track : Track
  /-- The steering unit and the front-axle limiter (Chapter 4). -/
  steering : Steering
  /-- The joint unit (Chapter 5). -/
  joints : Joints
  /-- The brake distributor (Chapter 6). -/
  brakes : Brakes
  /-- The level controller (Chapter 7). -/
  levels : Levels
  /-- The kneel sequencer (Chapter 8). -/
  kneel : Kneel
  /-- The door interlock unit (Chapter 9). -/
  doors : Doors
  /-- The echo supervisor (Chapter 10). -/
  echoes : Echoes
  /-- The table store (Chapter 11). -/
  tables : TableStore
  /-- The management agent (Chapter 12). -/
  agent : Agent
  /-- The model's own: how many free order choices have been drawn (log entries 4 and 19). -/
  orderCount : Nat
  /-- The model's own: the commands that wait, the first at the front. -/
  pending : List Instr
  deriving DecidableEq, Repr

/-- The reasons why the part stops: none. The manual describes no event at which the K524 stops, and every command has
an effect, so no constructor is needed. -/
inductive Fault where
  deriving DecidableEq, Repr

/-- The reasons why a command has no meaning. -/
inductive Refusal where
  /-- Raised by `exec` alone, for a row of the opcode table that has no meaning yet; no row is in that case. Safe. -/
  | notModelled (mnemonic : String)
  deriving DecidableEq, Repr

/-- A port after power-on (R26). -/
def PortState.reset : PortState := { link := .active, priority := [], ordinary := [], offer := .empty }

/-- A classifier record after every reset (R9, R12). -/
def EntryRecord.reset : EntryRecord := { counter := none, watch := none }

/-- The empty frame path fault set (R25). -/
def PathFaults.empty : PathFaults :=
  { portBusOffU := false, portBusOffD := false, shortFrame := false, counterRepeat := false, counterJump := false,
    plausibility := false, sampleLost := false, commandLost := false, statusLost := false, syncLost := false,
    egressDrop := false }

/-- The frame path after a reset whose cycle timer is started with `period` ms (R22, R26). -/
def FramePath.reset (period : Nat) : FramePath :=
  { entries := Vector.replicate 96 .reset
    cycle := { sync := .freeRun, timer := some period, syncPosted := false }
    faults := .empty }

/-- A slot after every reset (R27). -/
def SignalSlot.reset : SignalSlot := { value := 0, validity := .never, source := none }

/-- The board after a reset with these members in both reason sets (R44, R59). -/
def Board.reset (members : ReasonSet) : Board :=
  { haltSet := members, driveInhibit := members, haltLatch := true, haltConfirmed := false
    limits := PerKind.const none, stretch := PerAxle.const 0, faults := { egressDrop := false } }

/-- The track memory after every reset (R60). -/
def Track.reset : Track := { marks := [], lastOdo := none, nextPos := 0 }

/-- The steering unit after every reset (R68, R83, R86). -/
def Steering.reset : Steering :=
  { rear := PerRear.const { mode := .centre, lastAngle := 0 }, limiter := none
    faults := { trackBroken := false, limitEscape := false, egressDrop := false } }

/-- The joint unit after every reset (R87, R97). -/
def Joints.reset : Joints :=
  { records := PerJoint.const { envelope := .inside, damping := .firm }
    faults := { breachJ1 := false, breachJ2 := false, egressDrop := false } }

/-- The brake distributor after every reset (R98). -/
def Brakes.reset : Brakes :=
  { sources := PerAxle.const .unknown, snapshot := none
    faults := { loadFallback := false, demandStale := false, egressDrop := false } }

/-- A corner record after every reset (R115). -/
def CornerRecord.reset : CornerRecord :=
  { ring := [], average := none, target := .rideLevel, mode := .idle, inBand := false, slow := false, activeSince := none }

/-- The level controller after every reset (R115, R116). -/
def Levels.reset : Levels :=
  { corners := PerCorner.const .reset, ride := .normal
    faults := { heightStale := false, levelSlow := false, egressDrop := false } }

/-- The kneel sequencer after a reset that leaves its deadline timer as given (R135). -/
def Kneel.reset (deadline : Timer) : Kneel :=
  { state := .raising, armTimer := none, deadline, faultPosted := false
    faults := { armTimeout := false, kneelTimeout := false, raiseTimeout := false } }

/-- A door record with the values of R150 and a state. -/
def DoorRecord.reset (state : DoorState) : DoorRecord :=
  { state, armed := false, armTimer := none, candidate := none, debounce := 0, settled := none, lastEdge := none
    reversals := 0, latch := .empty, lockProof := none, releaseHold := none, lastCommand := none }

/-- The door unit after a reset that leaves these door states (R150). -/
def Doors.reset (states : Door → DoorState) : Doors :=
  { records := PerDoor.ofFn fun d => .reset (states d)
    faults := { armTimeout := false, obstructed := false, signalLost := false, egressDrop := false } }

/-- An echo record after every reset and FIT application (R166). -/
def EchoRecord.reset : EchoRecord :=
  { newest := none, previous := none, mismatch := 0, agreement := 0, state := .agree, timer := none }

/-- The echo supervisor after every reset (R166, R171). -/
def Echoes.reset : Echoes :=
  { records := PerEcho.const .reset, faults := { steerDisagree := false, axleDisagree := false } }

/-- The table store after power-on (R172). -/
def TableStore.reset : TableStore :=
  { staged := .blank, active := .absent, sums := PerTable.ofFn (entrySum .blank), waiting := PerTable.const false
    hold := false, epochs := PerTable.const 0
    outcome := { tables := PerTable.const false, result := .noResult, epochs := PerTable.const 0 }
    partState := .configuring }

/-- The management agent after every reset (R190, R196). -/
def Agent.reset : Agent :=
  { cursor := { table := .fit, index := 0, mode := .table }, resetArm := none
    faults := { egressDrop := false, mgmtDrop := false } }

/-- The part right after power-on with all three strap pins low (R26, R44, R59, R172, R197; log entry 17), with no
command waiting. -/
def State.reset : State :=
  { node := 0
    ports := PerPort.const .reset
    path := .reset 10
    slots := Vector.replicate 64 .reset
    board := .reset { doors := PerDoor.const false, kneel := true }
    track := .reset
    steering := .reset
    joints := .reset
    brakes := .reset
    levels := .reset
    kneel := .reset none
    doors := .reset fun _ => .absent
    echoes := .reset
    tables := .reset
    agent := .reset
    orderCount := 0
    pending := [] }

end Sys2Proof.Machine
end

