-- ==== Sys2Proof/Machine/Ops.lean ====
section
/-! DEFINITION. The named operations over the state that several blocks share: reading the active tables and the slots,
the free order choice, the egress queues, the reason sets, and the speed-limit map. -/

namespace Sys2Proof.Machine

/-! ## Active tables

In RUN every table is active (R183). Where a table is ABSENT its blank image is read; no run reads one then (log entry
9). -/

/-- A CONSTANTS parameter of the active copy. -/
def State.param (s : State) (p : Param) : Int := (s.tables.active.constants.getD blankConstants)[p.index]

/-- A CONSTANTS parameter as a count; every range is non-negative (11.2). -/
def State.paramNat (s : State) (p : Param) : Nat := (s.param p).toNat

/-- The active FIT's entries in their sorted order. -/
def State.fit (s : State) : List FitEntry := s.tables.active.fit.getD []

/-- The active AXLE entry of an axle. -/
def State.axleParams (s : State) (a : Axle) : AxleParams :=
  (s.tables.active.axle.getD StagedTables.blank.axle)[axleIndex a]

/-- The active CORNER entry of a corner. -/
def State.cornerParams (s : State) (c : Corner) : CornerParams :=
  (s.tables.active.corner.getD StagedTables.blank.corner)[cornerIndex c]

/-- The active DOOR entry of a door. -/
def State.doorParams (s : State) (d : Door) : DoorParams :=
  (s.tables.active.door.getD StagedTables.blank.door)[doorIndex d]

/-- Whether the active DOOR table fits a door; none is fitted while it is ABSENT (R149). -/
def State.fitted (s : State) (d : Door) : Bool := (s.doorParams d).fitted

/-- A schedule of the active SCHEDULE table. -/
def State.schedule (s : State) (n : ScheduleName) : Schedule :=
  (s.tables.active.schedule.getD StagedTables.blank.schedule)[n.index]

/-- Whether the part is in RUN (R183). -/
def State.inRun (s : State) : Bool := decide (s.tables.partState = .run)

/-- The EMIT entry of an emit kind: its identifier and its echo field. -/
def State.emitEntry (s : State) (k : EmitKind) : Option (BitVec 29 × Option EchoSpec) :=
  s.fit.findSome? fun e =>
    match e.role with
    | .emit kind echo => if kind = k then some (e.id, echo) else none
    | .arrival _ _ _ _ _ => none

/-- The emit kind of an echo record. -/
def echoEmitKind : EchoKind → EmitKind
  | .steer r => .steer r
  | .brake a => .brake a

/-- The echo field of a kind's EMIT entry, none where the entry has no echo (R166). -/
def State.echoSpec (s : State) (k : EchoKind) : Option EchoSpec :=
  match s.emitEntry (echoEmitKind k) with
  | some (_, echo) => echo
  | none => none

/-! ## Signal slots -/

/-- The usable range of a slot, none for "any" (2.1). -/
def usableRange (i : SlotId) : Option (Int × Int) :=
  let n := i.val
  if n = 0 then some (0, 1500)
  else if n = 1 then some (0, 2)
  else if n ≤ 6 then none
  else if n ≤ 14 then some (-250, 250)
  else if n ≤ 23 then some (0, 1000)
  else if n = 24 then some (-1000, 1000)
  else if n = 25 then some (0, 2)
  else if n = 26 then some (0, 1)
  else if n ≤ 31 then some (0, 3)
  else if n ≤ 36 then some (0, 4)
  else if n ≤ 42 then some (0, 1)
  else if n ≤ 44 then none
  else if n ≤ 48 then some (0, 1000)
  else none

/-- Whether a stored pattern lies within the slot's usable range (R33). -/
def inRange (i : SlotId) (v : SlotWord) : Bool :=
  match usableRange i with
  | none => true
  | some (lo, hi) => decide (lo ≤ v.toInt ∧ v.toInt ≤ hi)

/-- The value of a slot that counts as VALID, none of one that does not (R33, R34). -/
def State.readSlot (s : State) (i : SlotId) : Option SlotWord :=
  let x := s.slots[i]
  if x.validity = .valid ∧ inRange i x.value then some x.value else none

/-- The slot's value as a signed number (R32), where it counts as VALID. -/
def State.readInt (s : State) (i : SlotId) : Option Int := (s.readSlot i).map BitVec.toInt

/-- The slot's value as an angle (R32), where it counts as VALID. -/
def State.readAngle (s : State) (i : SlotId) : Option Angle := (s.readSlot i).map (BitVec.setWidth 16)

/-- Whether a slot counts as VALID (R33). -/
def State.present (s : State) (i : SlotId) : Bool := (s.readSlot i).isSome

/-- A slot that is STALE, or VALID with a value outside its usable range: a signal that came and is not usable (R107,
R118, R163). -/
def State.lostSlot (s : State) (i : SlotId) : Bool :=
  let x := s.slots[i]
  decide (x.validity = .stale) || (decide (x.validity = .valid) && !inRange i x.value)

/-- Slot 0. -/
def slotSpeed : SlotId := 0
/-- Slot 1. -/
def slotDirection : SlotId := 1
/-- Slot 2. -/
def slotOdometer : SlotId := 2
/-- Slot 3. -/
def slotHeading1 : SlotId := 3
/-- Slot 4. -/
def slotFrontAngle : SlotId := 4
/-- Slots 5 and 6. -/
def slotJoint : Joint → SlotId
  | .j1 => 5
  | .j2 => 6
/-- Slots 7 to 14: corner `c` reads slot 7 + c. -/
def slotHeight (c : Corner) : SlotId := ⟨7 + (cornerIndex c).val, by have := (cornerIndex c).isLt; omega⟩
/-- Slots 15 to 22, in the corners' order. -/
def slotPressure (c : Corner) : SlotId := ⟨15 + (cornerIndex c).val, by have := (cornerIndex c).isLt; omega⟩
/-- Slot 23. -/
def slotBrakeDemand : SlotId := 23
/-- Slot 24. -/
def slotTractionDemand : SlotId := 24
/-- Slot 25. -/
def slotKneelSwitch : SlotId := 25
/-- Slot 26. -/
def slotLevelRequest : SlotId := 26
/-- Slots 27 to 31. -/
def slotDoorRequest (d : Door) : SlotId := ⟨27 + (doorIndex d).val, by have := (doorIndex d).isLt; omega⟩
/-- Slots 32 to 36. -/
def slotDoorPosition (d : Door) : SlotId := ⟨32 + (doorIndex d).val, by have := (doorIndex d).isLt; omega⟩
/-- Slots 37 to 41. -/
def slotDoorEdge (d : Door) : SlotId := ⟨37 + (doorIndex d).val, by have := (doorIndex d).isLt; omega⟩
/-- Slot 42. -/
def slotKneelGuard : SlotId := 42
/-- Slots 45 to 48. -/
def slotBrakeEcho (a : Axle) : SlotId := ⟨45 + (axleIndex a).val, by have := (axleIndex a).isLt; omega⟩

/-- SPEED, where it counts as VALID. -/
def State.speed (s : State) : Option Int := s.readInt slotSpeed

/-- Whether SPEED counts as VALID and is below a limit. -/
def State.speedBelow (s : State) (v : Int) : Bool :=
  match s.speed with
  | some x => decide (x < v)
  | none => false

/-- Whether SPEED counts as VALID and is at least a limit. -/
def State.speedAtLeast (s : State) (v : Int) : Bool :=
  match s.speed with
  | some x => decide (v ≤ x)
  | none => false

/-- The vehicle is stationary: SPEED counts as VALID and is below 10 (00_scope.md, 6.6; R34). -/
def State.stationary (s : State) : Bool := s.speedBelow 10

/-- DIRECTION counts as VALID and is STILL or FORWARD (R34). -/
def State.notReverse (s : State) : Bool :=
  match s.readInt slotDirection with
  | some x => decide (x = 0 ∨ x = 1)
  | none => false

/-! ## Free order -/

/-- A free choice among `n` things, and the state with the choice drawn. -/
def State.drawOrder (s : State) (n : Nat) : Nat × State :=
  (Config.pick s.orderCount % n, { s with orderCount := s.orderCount + 1 })

/-- Takes events one after another in a free order: the manual allows every order of them (log entry 4). No choice is
drawn for the last one. The first argument bounds the number of events. -/
def inAnyOrder {α : Type} (take : α → State → State) : Nat → List α → State → State
  | 0, _, s => s
  | _ + 1, [], s => s
  | _ + 1, [e], s => take e s
  | n + 1, e :: f :: es, s =>
    let (k, s') := s.drawOrder (es.length + 2)
    let e' := ((e :: f :: es)[k]?).getD e
    inAnyOrder take n ((e :: f :: es).eraseIdx k) (take e' s')

/-- All the events of a list, in a free order. -/
def State.takeAll {α : Type} (s : State) (take : α → State → State) (es : List α) : State :=
  inAnyOrder take es.length es s

/-! ## Egress queues and transmission -/

/-- The capacity of a queue (R17). -/
def QueueKind.capacity : QueueKind → Nat
  | .priority => 8
  | .ordinary => 32

/-- A queue of a port. -/
def PortState.queue (p : PortState) : QueueKind → List Frame
  | .priority => p.priority
  | .ordinary => p.ordinary

/-- The port with a queue replaced. -/
def PortState.setQueue (p : PortState) (k : QueueKind) (q : List Frame) : PortState :=
  match k with
  | .priority => { p with priority := q }
  | .ordinary => { p with ordinary := q }

/-- Whether a queue holds a waiting frame of an identifier (R19). -/
def holdsId (q : List Frame) (id : FrameId) : Bool := q.any fun g => decide (g.id = id)

/-- One admitted frame put into a queue: in place of the waiting frame of its identifier, or at the end (R18, R19). -/
def admitFrame (q : List Frame) (f : Frame) : List Frame :=
  if holdsId q f.id then q.map fun g => if g.id = f.id then f else g else q ++ [f]

/-- The number of frames of a set that replace no waiting frame (R18). -/
def newFrames (q : List Frame) (fs : List Frame) : Nat := (fs.filter fun f => !holdsId q f.id).length

/-- The arbiter's choice: while the port is ACTIVE and nothing is on offer, the head of the priority queue, or else of
the ordinary queue (R20). -/
def PortState.arbitrate (p : PortState) : PortState :=
  match p.link, p.offer with
  | .active, .empty =>
    match p.priority, p.ordinary with
    | f :: _, _ => { p with offer := .onOffer .priority f false }
    | [], f :: _ => { p with offer := .onOffer .ordinary f false }
    | [], [] => p
  | _, _ => p

/-- The offer after a set has been admitted to a queue: renewed where the set replaced the frame on offer (R19). -/
def Offer.afterAdmission (o : Offer) (k : QueueKind) (fs : List Frame) : Offer :=
  match o with
  | .empty => .empty
  | .awaiting content => .awaiting content
  | .onOffer k' content renewed => .onOffer k' content (renewed || (decide (k' = k) && holdsId fs content.id))

/-- An output set offered to a queue of a port: the port as admission leaves it, or none where the set is refused (R18,
R2). -/
def PortState.admission (p : PortState) (k : QueueKind) (fs : List Frame) : Option PortState :=
  let q := p.queue k
  if p.link = .active ∧ q.length + newFrames q fs ≤ k.capacity then
    some (({ p with offer := p.offer.afterAdmission k fs }.setQueue k (fs.foldl admitFrame q)).arbitrate)
  else none

/-- An output set offered to a queue; none where it is refused (R18). -/
def State.offerSet (s : State) (p : Port) (k : QueueKind) (fs : List Frame) : Option State :=
  match (s.ports.get p).admission k fs with
  | some ps => some { s with ports := s.ports.set p ps }
  | none => none

/-- The frame that the part sends for an emit kind: the identifier of its EMIT entry in extended format (R17). -/
def State.emitFrame (s : State) (k : EmitKind) (data : List Byte) : Option Frame :=
  match s.emitEntry k with
  | some (id, _) => some { id := .ext id, data }
  | none => none

/-- The frames of an output set. In RUN the FIT holds every emit kind that a fitted job needs (R177); a kind without an
entry sends no frame (log entry 10). -/
def State.emitFrames (s : State) (ks : List (EmitKind × List Byte)) : List Frame :=
  ks.filterMap fun x => s.emitFrame x.1 x.2

/-! ## Reason sets and speed-limit map -/

/-- Whether a reason set holds a member. -/
def ReasonSet.has (r : ReasonSet) : Reason → Bool
  | .door d => r.doors.get d
  | .kneel => r.kneel

/-- The set with a member present or absent. -/
def ReasonSet.put (r : ReasonSet) (m : Reason) (b : Bool) : ReasonSet :=
  match m with
  | .door d => { r with doors := r.doors.set d b }
  | .kneel => { r with kneel := b }

/-- Whether a reason set is empty. -/
def ReasonSet.isEmpty (r : ReasonSet) : Bool :=
  !(r.kneel || r.doors.d1 || r.doors.d2 || r.doors.d3 || r.doors.d4 || r.doors.d5)

/-- A post: the member joins both sets, and the halt latch is set where the halt set was empty (R42, R45). So does KNEEL
where the halt set is non-empty already, of which R136 says that neither set changes: the model follows R42 (DEDUCED, log
entry 33). -/
def State.postReason (s : State) (m : Reason) : State :=
  { s with board := { s.board with
      haltSet := s.board.haltSet.put m true
      driveInhibit := s.board.driveInhibit.put m true
      haltLatch := s.board.haltLatch || s.board.haltSet.isEmpty } }

/-- A withdrawal: the member leaves both sets (R42). -/
def State.withdrawReason (s : State) (m : Reason) : State :=
  { s with board := { s.board with
      haltSet := s.board.haltSet.put m false
      driveInhibit := s.board.driveInhibit.put m false } }

/-- Halt is active while the halt set is non-empty or the halt latch is SET (R47). -/
def State.haltActive (s : State) : Bool := !s.board.haltSet.isEmpty || s.board.haltLatch

/-- A kind is posted to the speed-limit map with its limit from the active CONSTANTS (R49). -/
def State.postLimit (s : State) (k : LimitKind) : State :=
  { s with board := { s.board with limits := s.board.limits.set k (some (s.paramNat k.param)) } }

/-- A kind is withdrawn from the speed-limit map (R49). -/
def State.withdrawLimit (s : State) (k : LimitKind) : State :=
  { s with board := { s.board with limits := s.board.limits.set k none } }

/-- The smallest limit of a list, none for the empty list. -/
def smallest : List (Option Nat) → Option Nat
  | [] => none
  | none :: xs => smallest xs
  | some x :: xs =>
    match smallest xs with
    | none => some x
    | some y => some (min x y)

/-- The limits held by the map, kind by kind. -/
def limitList (m : PerKind (Option Nat)) : List (Option Nat) := PerKind.all.map m.get

/-- The requested limit: the smallest in the map, none when it is empty (R51). -/
def State.requestedLimit (s : State) : Option Nat := smallest (limitList s.board.limits)

/-! ## Schedules -/

/-- The speed at which schedules are read: SPEED clamped to 0..800, and 800 where it does not count as VALID (R67). -/
def State.scheduleSpeed (s : State) : Nat :=
  match s.speed with
  | some v => (clampInt 0 800 v).toNat
  | none => 800

/-- A schedule read at a speed, by interpolation (R67). -/
def scheduleAt (y : Schedule) (v : Nat) : Int :=
  let k := v / 100
  if 8 ≤ k then (vget y 8 0 : Nat)
  else
    let y0 : Int := (vget y k 0 : Nat)
    let y1 : Int := (vget y (k + 1) 0 : Nat)
    y0 + ((y1 - y0) * ((v : Int) - 100 * k)).tdiv 100

/-- A schedule of the active table at the speed that an event sees (R67). -/
def State.readSchedule (s : State) (n : ScheduleName) : Int := scheduleAt (s.schedule n) s.scheduleSpeed

end Sys2Proof.Machine
end

