-- ==== Sys2Proof/Machine/Echoing.lean ====
section
/-! DEFINITION. The echo supervisor (Chapter 10). -/

namespace Sys2Proof.Machine

/-- Whether an emit kind's actuator is in DISAGREE; an entry without an echo never is (R69, R108). -/
def State.disagrees (s : State) (k : EchoKind) : Bool :=
  (s.echoSpec k).isSome && decide ((s.echoes.records.get k).state = .disagree)

/-- The state with one echo record replaced. -/
def State.setEcho (s : State) (k : EchoKind) (r : EchoRecord) : State :=
  { s with echoes := { s.echoes with records := s.echoes.records.set k r } }

/-- The admission of a frame of an echoed kind: the value pair shifts and the timer is started (R167). -/
def State.echoEmission (s : State) (k : EchoKind) (v : Int) : State :=
  match s.echoSpec k with
  | none => s
  | some e =>
    let r := s.echoes.records.get k
    s.setEcho k { r with previous := r.newest, newest := some v, timer := some e.deadline }

/-- The difference of an echo from an emitted value: wrapped for a STEER kind, plain for a BRAKE kind (R168). -/
def echoDifference (k : EchoKind) (echo : SlotWord) (v : Int) : Int :=
  match k with
  | .steer _ => wd (echo.setWidth 16) (BitVec.ofInt 16 v)
  | .brake _ => echo.toInt - v

/-- Whether an echo lies within the tolerance of an emitted value (R168). -/
def echoNear (k : EchoKind) (tol : Nat) (echo : SlotWord) (v : Int) : Bool :=
  decide ((echoDifference k echo v).natAbs ≤ tol)

/-- Whether the echo that an arrival left in the echo slot matches the record's newest or previous value (R168). -/
def State.echoMatches (s : State) (k : EchoKind) (e : EchoSpec) (r : EchoRecord) : Bool :=
  match s.readSlot e.slot with
  | none => false
  | some echo =>
    (match r.newest with
      | some v => echoNear k e.tolerance echo v
      | none => false)
    || (match r.previous with
      | some v => echoNear k e.tolerance echo v
      | none => false)

/-- A match or a mismatch counted (R168, R169). A match makes the mismatch count 0 in DISAGREE too, and a mismatch after it
counts from there, as R168's table and the worked sequence have it; the last bullet of R169, and R170 of mismatches in
DISAGREE, read as if the count stayed at 3 (DEDUCED, log entry 34). -/
def EchoRecord.count (r : EchoRecord) (hit : Bool) : EchoRecord :=
  if hit then { r with mismatch := 0, agreement := min (r.agreement + 1) 10 }
  else { r with mismatch := min (r.mismatch + 1) 3, agreement := 0 }

/-- The state settled after a change of counts; `mayRecover` at an echo arrival with the vehicle stationary (R170). -/
def EchoRecord.settle (r : EchoRecord) (mayRecover : Bool) : EchoRecord :=
  match r.state with
  | .agree => if r.mismatch = 3 then { r with state := .disagree } else r
  | .disagree =>
    if mayRecover ∧ r.agreement = 10 then { r with state := .agree, mismatch := 0, agreement := 0 } else r

/-- The disagreement latched in the fault set for a kind (R170). -/
def EchoFaults.latch (f : EchoFaults) : EchoKind → EchoFaults
  | .steer _ => { f with steerDisagree := true }
  | .brake _ => { f with axleDisagree := true }

/-- A record replaced by its settled form, with the disagreement latched where the record has just entered it (R170). -/
def State.settleEcho (s : State) (k : EchoKind) (r : EchoRecord) (mayRecover : Bool) : State :=
  let r' := r.settle mayRecover
  let s' := s.setEcho k r'
  if r.state = .agree ∧ r'.state = .disagree then
    { s' with echoes := { s'.echoes with faults := s'.echoes.faults.latch k } }
  else s'

/-- A slot notice for a record's echo slot (R168). -/
def State.echoArrival (s : State) (k : EchoKind) : State :=
  match s.echoSpec k with
  | none => s
  | some e =>
    let r := s.echoes.records.get k
    if r.newest = none then s
    else
      s.settleEcho k { r.count (s.echoMatches k e r) with timer := some e.deadline } s.stationary

/-- The expiry of a record's echo timer: a mismatch, and the timer restarted (R169). Nothing where the timer is idle. -/
def State.echoExpiry (s : State) (k : EchoKind) : State :=
  let r := s.echoes.records.get k
  if r.timer = none then s
  else
    match s.echoSpec k with
    | none => s.setEcho k { r with timer := none }
    | some e => s.settleEcho k { r.count false with timer := some e.deadline } false

end Sys2Proof.Machine
end

