-- ==== Sys2Proof/Machine/Brakes.lean ====
section
/-! DEFINITION. The brake distributor (Chapter 6). -/

namespace Sys2Proof.Machine

/-- The fault set with members added. -/
def State.latchBrake (s : State) (f : BrakeFaults → BrakeFaults) : State :=
  { s with brakes := { s.brakes with faults := f s.brakes.faults } }

/-- The load of an axle from its bag pressures, or FALLBACK_a where one of them is missing (R99, cases 2 and 3). -/
def State.freshLoad (s : State) (a : Axle) : Nat × LoadSource :=
  let p := s.axleParams a
  match s.readInt (slotPressure (leftCorner a)), s.readInt (slotPressure (rightCorner a)) with
  | some l, some r => (min (p.base + (l + r).toNat * p.k / 256) 4000, .pressures)
  | _, _ => (p.fallback, .fallback)

/-- The load of an axle: the snapshot's where one is present (R99). -/
def State.axleLoad (s : State) (a : Axle) : Nat × LoadSource :=
  match s.brakes.snapshot with
  | some snap => (snap.loads.get a, .snapshot)
  | none => s.freshLoad a

/-- Whether any of four determined loads came from FALLBACK. -/
def anyFallback (loads : PerAxle (Nat × LoadSource)) : Bool :=
  PerAxle.all.any fun a => decide ((loads.get a).2 = .fallback)

/-- The load record written, and LOAD_FALLBACK latched where a load is a FALLBACK load (R99). -/
def State.recordLoads (s : State) (loads : PerAxle (Nat × LoadSource)) : State :=
  { s with brakes := { s.brakes with
      sources := PerAxle.ofFn fun a => (loads.get a).2
      faults := { s.brakes.faults with loadFallback := s.brakes.faults.loadFallback || anyFallback loads } } }

/-- The kneel sequencer's request for a load snapshot (R100). -/
def State.requestSnapshot (s : State) : State :=
  match s.brakes.snapshot with
  | some _ => s
  | none =>
    let loads := PerAxle.ofFn s.freshLoad
    let s' := s.recordLoads loads
    { s' with brakes := { s'.brakes with
        snapshot := some { loads := PerAxle.ofFn fun a => (loads.get a).1, anyFallback := anyFallback loads } } }

/-- The snapshot cleared (R101). -/
def State.clearSnapshot (s : State) : State := { s with brakes := { s.brakes with snapshot := none } }

/-- The axles in DISAGREE (R108). -/
def State.disagreeingAxles (s : State) : List Axle := PerAxle.all.filter fun a => s.disagrees (.brake a)

/-- BRAKE posted while an axle is in DISAGREE, and withdrawn otherwise (R109). -/
def State.brakeLimit (s : State) : State :=
  if s.disagreeingAxles.isEmpty then s.withdrawLimit .brake else s.postLimit .brake

/-- The pressure of an axle from its load and the demand: service pressure, halt floor, stretch, clamp (R103). -/
def State.axlePressure (s : State) (a : Axle) (load demand : Nat) : Nat :=
  let p := s.axleParams a
  let service := load * demand * p.bg / 65536
  let floored := if s.haltActive then max service (s.paramNat .holdPressure) else service
  min (floored + s.board.stretch.get a) p.pmax

/-- The emissions of an admitted brake set (R104). -/
def State.brakesEmitted (s : State) (p : PerAxle Nat) : State :=
  PerAxle.all.foldl (fun s a => s.echoEmission (.brake a) (p.get a)) s

/-- The frames of a brake set, in their order (R104, 12.6). -/
def brakeFrames (p : PerAxle Nat) : List (EmitKind × List Byte) :=
  PerAxle.all.map fun a => (.brake a, half (p.get a))

/-- A pressure computation with a demand, and its output set (R103, R104, R105). -/
def State.computePressures (s : State) (demand : Nat) : State :=
  let loads := PerAxle.ofFn s.axleLoad
  let pressures := PerAxle.ofFn fun a => s.axlePressure a (loads.get a).1 demand
  let s' := (s.recordLoads loads).brakeLimit
  match s'.offerSet .d .priority (s'.emitFrames (brakeFrames pressures)) with
  | some t => t.brakesEmitted pressures
  | none => s'.latchBrake fun f => { f with egressDrop := true }

/-- A computation with STALE_DECEL; DEMAND_STALE is latched unless the demand is NEVER (R106, R107). -/
def State.computeStale (s : State) : State :=
  let s' := if s.lostSlot slotBrakeDemand then s.latchBrake fun f => { f with demandStale := true } else s
  s'.computePressures (s'.paramNat .staleDecel)

/-- A BRAKE trigger (R102). -/
def State.brakeTrigger (s : State) : State :=
  match s.readInt slotBrakeDemand with
  | some d => s.computePressures d.toNat
  | none => s.computeStale

/-- The distributor at a cycle mark in RUN (R106). -/
def State.brakeMark (s : State) : State := if s.present slotBrakeDemand then s else s.computeStale

/-- Whether an axle's echo passes (R111). -/
def State.echoPasses (s : State) (a : Axle) : Bool :=
  match s.readInt (slotBrakeEcho a) with
  | some v => decide (s.param .holdPressure - s.param .haltTol ≤ v)
  | none => false

/-- The verdict on the halt brake (R111). -/
def State.haltVerdict (s : State) : Bool :=
  s.haltActive && decide (s.disagreeingAxles.length ≤ 1)
    && PerAxle.all.all fun a => s.disagrees (.brake a) || s.echoPasses a

/-- A recomputation of HALT_CONFIRMED at an echo notice or loss notice (R109, R110). -/
def State.recomputeHalt (s : State) : State :=
  let s' := { s with board := { s.board with haltConfirmed := s.haltVerdict } }
  s'.brakeLimit

end Sys2Proof.Machine
end

