-- ==== Sys2Proof/Machine/Guards.lean ====
section
/-! DEFINITION. The guard evaluator (2.4) and the DRIVE_RELEASE gate with the halt latch's release (R46). -/

namespace Sys2Proof.Machine

/-- A predicate on ordered operands (R38). -/
def predicateHolds (p : Predicate) (a b : Int) : Bool :=
  match p with
  | .eq => decide (a = b)
  | .lt => decide (a < b)
  | .le => decide (a ≤ b)
  | .unord => false
  | .ne => decide (a ≠ b)
  | .nlt => decide (b ≤ a)
  | .nle => decide (b < a)
  | .ord => true

/-- A predicate on unordered operands: an absent slot (R38). -/
def predicateUnordered (p : Predicate) : Bool :=
  match p with
  | .eq => false
  | .lt => false
  | .le => false
  | .unord => true
  | .ne => true
  | .nlt => true
  | .nle => true
  | .ord => false

/-- Whether a rule is true as the store stands (R37, R38). -/
def State.ruleTrue (s : State) (r : GuardRule) : Bool :=
  match s.readInt r.slot with
  | none => predicateUnordered r.predicate
  | some v =>
    if r.swap then predicateHolds r.predicate r.constant.toInt v
    else predicateHolds r.predicate v r.constant.toInt

/-- The rules of the active GUARD table. -/
def State.guardRules (s : State) : List GuardRule := (s.tables.active.guard.getD StagedTables.blank.guard).toList

/-- The rule part of a gate: every enabled rule of the gate is true (R39). -/
def State.rulePart (s : State) (g : Gate) : Bool :=
  s.guardRules.all fun r => !(r.enabled && decide (r.gate = g)) || s.ruleTrue r

/-- The conditions for the release of the halt latch: the DRIVE_RELEASE gate (R46). -/
def State.driveReleaseOpen (s : State) : Bool :=
  s.board.haltSet.isEmpty
    && (match s.readInt slotTractionDemand with
        | some v => decide (s.param .haltReleaseDemand ≤ v)
        | none => false)
    && s.rulePart .driveRelease

/-- The board at a slot notice for TRACTION_DEMAND (R46, R47). -/
def State.tractionNotice (s : State) : State :=
  if s.board.haltLatch ∧ s.driveReleaseOpen then
    { s with board := { s.board with haltLatch := false, haltConfirmed := false } }
  else s

end Sys2Proof.Machine
end

