-- ==== Sys2Proof/Machine/Jointing.lean ====
section
/-! DEFINITION. The joint unit (Chapter 5). -/

namespace Sys2Proof.Machine

/-- The envelope schedule of a joint. -/
def envelopeSchedule : Joint → ScheduleName
  | .j1 => .envJ1
  | .j2 => .envJ2

/-- The reason kind of a joint (R50). -/
def jointLimit : Joint → LimitKind
  | .j1 => .jointJ1
  | .j2 => .jointJ2

/-- The envelope state of a joint whose slot counts as VALID (R89). -/
def settleEnvelope (before : Envelope) (magnitude : Nat) (envelope hyst : Int) : Envelope :=
  match before with
  | .inside => if envelope < magnitude then .breach else .inside
  | .breach => if (magnitude : Int) ≤ envelope - hyst then .inside else .breach

/-- The envelope state of a joint after a STEER trigger; a missing slot keeps it (R88, R89, R90). -/
def State.jointEnvelope (s : State) (j : Joint) : Envelope :=
  let before := (s.joints.records.get j).envelope
  match s.readAngle (slotJoint j) with
  | some v => settleEnvelope before v.toInt.natAbs (s.readSchedule (envelopeSchedule j)) (s.param .jointHyst)
  | none => before

/-- The damping level of a joint with the given envelope state (R91). -/
def State.jointDamping (s : State) (j : Joint) (e : Envelope) : Damping :=
  if !s.present (slotJoint j) then .full
  else if e = .breach then .full
  else if s.speedBelow (s.param .dampFirmSpeed) then .soft else .firm

/-- The fault set with a joint's breach latched (R92). -/
def JointFaults.latchBreach (f : JointFaults) : Joint → JointFaults
  | .j1 => { f with breachJ1 := true }
  | .j2 => { f with breachJ2 := true }

/-- One joint settled at a STEER trigger: its record, its speed-limit kind and its fault (R89 to R92). -/
def State.settleJoint (s : State) (j : Joint) : State :=
  let before := (s.joints.records.get j).envelope
  let e := s.jointEnvelope j
  let r : JointRecord := { envelope := e, damping := s.jointDamping j e }
  let faults := if before = .inside ∧ e = .breach then s.joints.faults.latchBreach j else s.joints.faults
  let s' := { s with joints := { s.joints with records := s.joints.records.set j r, faults := faults } }
  if e = .breach then s'.postLimit (jointLimit j) else s'.withdrawLimit (jointLimit j)

/-- Whether a joint is in BREACH. -/
def State.inBreach (s : State) (j : Joint) : Bool := decide ((s.joints.records.get j).envelope = .breach)

/-- The stretch demand record written from the two envelope states (R93). -/
def State.writeStretch (s : State) : State :=
  let a := if s.inBreach .j1 then s.paramNat .stretchJ1 else 0
  let b := if s.inBreach .j2 then s.paramNat .stretchJ2 else 0
  { s with board := { s.board with stretch := { a1 := 0, a2 := 0, a3 := a, a4 := max a b } } }

/-- Damping codes (12.6). -/
def dampingCode : Damping → Nat
  | .soft => 0
  | .firm => 1
  | .full => 2

/-- The damping set of both joints' stored levels, offered to the Port D ordinary queue (R94). -/
def State.offerDamping (s : State) : State :=
  let data := fun j => byte (dampingCode (s.joints.records.get j).damping)
  match s.offerSet .d .ordinary (s.emitFrames [(.damp .j1, data .j1), (.damp .j2, data .j2)]) with
  | some t => t
  | none => { s with joints := { s.joints with faults := { s.joints.faults with egressDrop := true } } }

/-- The joint unit at a STEER trigger (R88 to R94). -/
def State.jointTrigger (s : State) : State := ((s.settleJoint .j1).settleJoint .j2).writeStretch.offerDamping

/-- The joint unit at a cycle mark in RUN (R95). -/
def State.jointMark (s : State) : State :=
  if s.present (slotJoint .j1) then s
  else
    let full := fun j => { s.joints.records.get j with damping := .full }
    ({ s with joints := { s.joints with records := PerJoint.ofFn full } }).offerDamping

end Sys2Proof.Machine
end

