-- ==== Sys2Proof/Machine/Levelling.lean ====
section
/-! DEFINITION. The level controller (Chapter 7). -/

namespace Sys2Proof.Machine

/-! ## Records -/

/-- The state with one corner record replaced. -/
def State.setCorner (s : State) (c : Corner) (r : CornerRecord) : State :=
  { s with levels := { s.levels with corners := s.levels.corners.set c r } }

/-- The state with every corner record mapped. -/
def State.mapCorners (s : State) (f : Corner → CornerRecord → CornerRecord) : State :=
  { s with levels := { s.levels with corners := PerCorner.ofFn fun c => f c (s.levels.corners.get c) } }

/-- The controller's fault set changed. -/
def State.latchLevel (s : State) (f : LevelFaults → LevelFaults) : State :=
  { s with levels := { s.levels with faults := f s.levels.faults } }

/-- A sample pushed onto a ring of at most 16 (R115). -/
def pushSample (ring : List Int) (x : Int) : List Int := (if 16 ≤ ring.length then ring.drop 1 else ring) ++ [x]

/-- A record with its ring emptied: no average, not in band (R128). -/
def CornerRecord.clearRing (r : CornerRecord) : CornerRecord := { r with ring := [], average := none, inBand := false }

/-- Whether a mode is one of the two that correct (R130). -/
def CornerMode.correcting : CornerMode → Bool
  | .idle => false
  | .delta => true
  | .rapid => true
  | .suspended => false
  | .fault => false

/-- LEVEL_SLOW withdrawn where no corner is slow (R127, R130). -/
def State.settleSlow (s : State) : State :=
  if PerCorner.all.any fun c => (s.levels.corners.get c).slow then s else s.withdrawLimit .levelSlow

/-- A change of target: the ring emptied, the timer of a correcting corner restarted, the slow flag FALSE (R128, R129,
R130). -/
def CornerRecord.retarget (r : CornerRecord) (deadline : Nat) : CornerRecord :=
  let r' := r.clearRing
  { r' with activeSince := if r.mode.correcting then some deadline else r.activeSince, slow := false }

/-! ## Ride level -/

/-- The effects of a change of ride level on the corners that follow it (R131, R132). -/
def State.retargetRide (s : State) : State :=
  (s.mapCorners fun _ r => if r.target = .rideLevel then r.retarget (s.paramNat .levelDeadline) else r).settleSlow

/-- The ride level becomes NORMAL; nothing where it is NORMAL already (R132). -/
def State.rideNormal (s : State) : State :=
  match s.levels.ride with
  | .normal => s
  | .high => (({ s with levels := { s.levels with ride := .normal } }).retargetRide).withdrawLimit .levelHigh

/-- The ride level becomes HIGH (R131). -/
def State.rideHigh (s : State) : State :=
  (({ s with levels := { s.levels with ride := .high } }).retargetRide).postLimit .levelHigh

/-- The return check of R132. -/
def State.returnCheck (s : State) : State := if s.speedAtLeast (s.param .highLevelReturn) then s.rideNormal else s

/-- The LEVEL_HIGH gate (R131). -/
def State.levelHighOpen (s : State) : Bool :=
  decide (s.kneel.state = .ride) && s.speedBelow (s.param .highLevelMax) && s.rulePart .levelHigh

/-- A slot notice for LEVEL_REQUEST (R131). -/
def State.levelRequestNotice (s : State) : State :=
  let s' := s.returnCheck
  match s'.readInt slotLevelRequest with
  | none => s'
  | some v =>
    if v = 0 then s'.rideNormal
    else if s'.levels.ride = .normal ∧ s'.levelHighOpen then s'.rideHigh else s'

/-! ## Targets -/

/-- The target of a corner from the ride level (R120). -/
def State.rideTarget (s : State) (c : Corner) : Int :=
  match s.levels.ride with
  | .normal => (s.cornerParams c).normal
  | .high => (s.cornerParams c).high

/-- The target of a corner (R120). -/
def State.target (s : State) (c : Corner) : Int :=
  match (s.levels.corners.get c).target with
  | .rideLevel => s.rideTarget c
  | .kneel => (s.cornerParams c).kneel
  | .frozen h => h

/-- A kerb target request of the kneel sequencer (R129). -/
inductive KerbRequest where
  | setKneel | freeze | returnToRide
  deriving DecidableEq, Repr

/-- The height at which a freeze holds a corner (R129). -/
def State.frozenHeight (s : State) (c : Corner) : Int :=
  let p := s.cornerParams c
  let h := match (s.levels.corners.get c).average with
    | some a => a
    | none => (s.readInt (slotHeight c)).getD (s.rideTarget c)
  clampInt p.min p.max h

/-- The target source that a request gives a corner (R129). -/
def State.requestedTarget (s : State) (c : Corner) : KerbRequest → TargetSource
  | .setKneel => .kneel
  | .freeze => .frozen (s.frozenHeight c)
  | .returnToRide => .rideLevel

/-- A kerb target request carried out on every kerb corner (R129). -/
def State.kerbRequest (s : State) (q : KerbRequest) : State :=
  (s.mapCorners fun c r =>
    if (s.cornerParams c).kerb ∧ r.target ≠ s.requestedTarget c q then
      { r.retarget (s.paramNat .levelDeadline) with target := s.requestedTarget c q }
    else r).settleSlow

/-! ## The LEVEL_AXLE trigger -/

/-- The sample step of a corner (R118). -/
def State.sampleCorner (s : State) (c : Corner) : State :=
  let r := s.levels.corners.get c
  match s.readInt (slotHeight c) with
  | some h => s.setCorner c { r with ring := pushSample r.ring h }
  | none =>
    let s' := s.setCorner c { r.clearRing with mode := .fault }
    if s.lostSlot (slotHeight c) then s'.latchLevel fun f => { f with heightStale := true } else s'

/-- Drive mode: SPEED is missing or at least DRIVE_MODE_SPEED (R119). -/
def State.driveMode (s : State) : Bool := !s.speedBelow (s.param .driveModeSpeed)

/-- The average over the newest samples of the effective window (R119). -/
def windowAverage (ring : List Int) (window : Nat) : Int :=
  let newest := ring.drop (ring.length - min window ring.length)
  newest.sum.tdiv newest.length

/-- The average of a corner at a trigger (R119). -/
def State.cornerAverage (s : State) (c : Corner) : Int :=
  windowAverage (s.levels.corners.get c).ring (if s.driveMode then 16 else (s.cornerParams c).window)

/-- The error of a corner at a trigger (R120). -/
def State.cornerError (s : State) (c : Corner) : Int := s.cornerAverage c - s.target c

/-- Whether levelling is suspended (R121). -/
def State.suspendedNow (s : State) : Bool :=
  (match s.readInt slotBrakeDemand with
    | some d => decide (s.param .levelSuspendDecel ≤ d)
    | none => false)
  || (match s.readAngle slotFrontAngle with
    | some a => decide (s.param .levelSuspendAngle ≤ (a.toInt.natAbs : Int))
    | none => false)
  || s.inBreach .j1 || s.inBreach .j2

/-- A command to one corner's valves (R126). -/
inductive ValveCommand where
  | hold
  | fill (ms : Nat)
  | exhaust (ms : Nat)
  | fillContinuous
  | exhaustContinuous
  deriving DecidableEq, Repr

/-- The length of a pulse (R123). -/
def pulseLength (p : CornerParams) (e : Int) : Nat := min p.maxPulse ((e.natAbs - p.damping) * p.gain)

/-- The pulse command of a corner in DELTA; a pulse of 0 ms is HOLD (R123). -/
def pulseCommand (p : CornerParams) (e : Int) : ValveCommand :=
  let ms := pulseLength p e
  if ms = 0 then .hold else if e < 0 then .fill ms else .exhaust ms

/-- Mode and command from an error (R122). -/
def settleMode (p : CornerParams) (rapidAllowed : Bool) (e : Int) : CornerMode × ValveCommand :=
  if e.natAbs ≤ p.tb then (.idle, .hold)
  else if e.natAbs ≤ p.db then (.delta, pulseCommand p e)
  else if rapidAllowed then (.rapid, if e < 0 then .fillContinuous else .exhaustContinuous)
  else (.delta, pulseCommand p e)

/-- Whether a corner's slot was found missing at this trigger (R117, step 2). -/
def State.heightMissing (s : State) (c : Corner) : Bool := !s.present (slotHeight c)

/-- Whether an axle carries a kerb corner (Chapter 8). -/
def State.carriesKerb (s : State) (a : Axle) : Bool :=
  (s.cornerParams (leftCorner a)).kerb || (s.cornerParams (rightCorner a)).kerb

/-- Whether an axle is paired at a trigger (R124). -/
def State.paired (s : State) (a : Axle) : Bool :=
  (s.cornerParams (leftCorner a)).pair
    && !s.heightMissing (leftCorner a) && !s.heightMissing (rightCorner a)
    && !s.suspendedNow
    && !(s.carriesKerb a && decide (s.kneel.state ≠ .ride))

/-- Mode and command of a corner at a trigger, after the samples (R117, step 6). -/
def State.cornerOutcome (s : State) (c : Corner) : CornerMode × ValveCommand :=
  let a := cornerAxle c
  let l := leftCorner a
  if s.heightMissing c then (.fault, .hold)
  else if s.suspendedNow then (.suspended, .hold)
  else if s.paired a then
    let e := (s.cornerError l + s.cornerError (rightCorner a)).tdiv 2
    settleMode (s.cornerParams l) (!s.driveMode && (s.cornerParams l).rapid) e
  else settleMode (s.cornerParams c) (!s.driveMode && (s.cornerParams c).rapid) (s.cornerError c)

/-- The timer and slow flag of a corner after its mode is settled, from the mode before the trigger (R130). -/
def CornerRecord.settleTimer (r : CornerRecord) (before : CornerMode) (deadline : Nat) : CornerRecord :=
  if r.mode.correcting then (if before.correcting then r else { r with activeSince := some deadline })
  else { r with activeSince := none, slow := false }

/-- A corner's record after a trigger (R117, steps 3 to 7); `s` is the state after the samples, `before` the mode before
the trigger. -/
def State.cornerAfter (s : State) (c : Corner) (before : CornerMode) : CornerRecord :=
  let r := s.levels.corners.get c
  let present := !s.heightMissing c
  let r' := { r with
    mode := (s.cornerOutcome c).1
    average := if present then some (s.cornerAverage c) else none
    inBand := present && decide ((s.cornerError c).natAbs ≤ (s.cornerParams c).tb) }
  r'.settleTimer before (s.paramNat .levelDeadline)

/-- The bytes of a valve command (12.6). -/
def valveBytes : ValveCommand → List Byte
  | .hold => byte 0 ++ byte 0
  | .fill ms => byte 1 ++ byte ms
  | .exhaust ms => byte 2 ++ byte ms
  | .fillContinuous => byte 3 ++ byte 0
  | .exhaustContinuous => byte 4 ++ byte 0

/-- A valve frame of an axle offered to the Port D ordinary queue (R126). -/
def State.offerValves (s : State) (a : Axle) (l r : ValveCommand) : State :=
  match s.offerSet .d .ordinary (s.emitFrames [(.valve a, valveBytes l ++ valveBytes r)]) with
  | some t => t
  | none => s.latchLevel fun f => { f with egressDrop := true }

/-- The level controller at a LEVEL_AXLE trigger (R117). -/
def State.levelTrigger (s : State) (a : Axle) : State :=
  let l := leftCorner a
  let r := rightCorner a
  let s1 := s.returnCheck
  let s2 := (s1.sampleCorner l).sampleCorner r
  let beforeL := (s1.levels.corners.get l).mode
  let beforeR := (s1.levels.corners.get r).mode
  let s3 := ((s2.setCorner l (s2.cornerAfter l beforeL)).setCorner r (s2.cornerAfter r beforeR)).settleSlow
  s3.offerValves a (s2.cornerOutcome l).2 (s2.cornerOutcome r).2

/-- A loss notice for a corner's height slot (R127). In RUN the HOLD frame is offered at every notice, even where no
LEVEL_AXLE trigger has come since RUN was entered, of which R116 says that no valve frame is sent before it: the model
follows R127 there (DESIGN CHOICE, log entry 30). -/
def State.heightLoss (s : State) (c : Corner) : State :=
  let r := s.levels.corners.get c
  let s1 := (s.setCorner c { r.clearRing with mode := .fault, slow := false, activeSince := none }).settleSlow
  let s2 := if s.slots[slotHeight c].validity = .stale then s1.latchLevel fun f => { f with heightStale := true } else s1
  if s.inRun then s2.offerValves (cornerAxle c) .hold .hold else s2

/-- The expiry of a corner's slow-levelling timer (R130). Nothing where the timer is idle. -/
def State.activeSinceExpiry (s : State) (c : Corner) : State :=
  let r := s.levels.corners.get c
  if r.activeSince = none then s
  else
    ((s.setCorner c { r with slow := true, activeSince := none }).latchLevel fun f => { f with levelSlow := true }).postLimit
      .levelSlow

/-! ## Table applications -/

/-- A corner's target source after a CORNER application (R133). -/
def targetAfterApplication (p : CornerParams) (t : TargetSource) : TargetSource :=
  if p.kerb then
    match t with
    | .rideLevel => .rideLevel
    | .kneel => .kneel
    | .frozen h => .frozen (clampInt p.min p.max h)
  else .rideLevel

/-- The level controller at an application of the CORNER table; the new table is active already (R133). -/
def State.cornerApplied (s : State) : State :=
  (s.mapCorners fun c r =>
    { r.clearRing with mode := .idle, slow := false, activeSince := none,
                       target := targetAfterApplication (s.cornerParams c) r.target }).withdrawLimit .levelSlow

/-- Every ring emptied at an application of the FIT (R128, R133). -/
def State.clearRings (s : State) : State := s.mapCorners fun _ r => r.clearRing

end Sys2Proof.Machine
end

