-- ==== Sys2Proof/Machine/Kneeling.lean ====
section
/-! DEFINITION. The kneel sequencer (Chapter 8). -/

namespace Sys2Proof.Machine

/-- The kneel record changed. -/
def State.setKneel (s : State) (f : Kneel → Kneel) : State := { s with kneel := f s.kneel }

/-- The sequencer's fault set changed. -/
def State.latchKneel (s : State) (f : KneelFaults → KneelFaults) : State :=
  s.setKneel fun k => { k with faults := f k.faults }

/-- The kerb corners of the active CORNER table (Chapter 8). -/
def State.kerbCorners (s : State) : List Corner := PerCorner.all.filter fun c => (s.cornerParams c).kerb

/-- All kerb corners are in band (R137). -/
def State.allInBand (s : State) : Bool := s.kerbCorners.all fun c => (s.levels.corners.get c).inBand

/-- Some kerb corner is in FAULT. -/
def State.kerbFault (s : State) : Bool := s.kerbCorners.any fun c => decide ((s.levels.corners.get c).mode = .fault)

/-- What KNEEL_SWITCH asks for at a re-evaluation (R137). -/
inductive KneelAsk where
  | nothing | kneel | raise
  deriving DecidableEq, Repr

/-- The request that KNEEL_SWITCH makes at a KNEEL trigger (R137). -/
def State.kneelSwitch (s : State) : KneelAsk :=
  match s.readInt slotKneelSwitch with
  | some v => if v = 1 then .kneel else if v = 2 then .raise else .nothing
  | none => .nothing

/-- The guard is clear: KNEEL_GUARD counts as VALID and is 0 (R137). -/
def State.guardClear (s : State) : Bool := decide (s.readInt slotKneelGuard = some 0)

/-- The KNEEL_LOWER gate (R139). -/
def State.kneelLowerOpen (s : State) : Bool :=
  s.speedBelow (s.param .vKneel) && s.board.haltConfirmed && !s.kerbFault && s.rulePart .kneelLower

/-- AUTO_KNEEL: parameter 22 is 1 or 3 (11.2). -/
def State.autoKneel (s : State) : Bool := decide (s.param .automation = 1 ∨ s.param .automation = 3)

/-- AUTO_RAISE: parameter 22 is 2 or 3 (11.2). -/
def State.autoRaise (s : State) : Bool := decide (s.param .automation = 2 ∨ s.param .automation = 3)

/-- Every fitted door is LOCKED and not armed (R144). -/
def State.doorsLocked (s : State) : Bool :=
  PerDoor.all.all fun d =>
    !s.fitted d || (decide ((s.doors.records.get d).state = .locked) && !(s.doors.records.get d).armed)

/-- The raise condition of R144: the KNEEL_RAISE gate, and a raise request or an automatic raise. -/
def State.raiseNow (s : State) (ask : KneelAsk) : Bool :=
  s.inRun && s.rulePart .kneelRaise
    && (decide (ask = .raise)
        || (s.autoRaise && s.doorsLocked
            && (match s.readInt slotTractionDemand with
                | some v => decide (s.param .haltReleaseDemand ≤ v)
                | none => false)))

/-! ## Entries (R136) -/

/-- Entry to ARMING. -/
def State.enterArming (s : State) : State :=
  ((s.setKneel fun k => { k with state := .arming, armTimer := some (s.paramNat .kneelArmTimeout) }).postReason
    .kneel).rideNormal

/-- Entry to LOWERING. -/
def State.enterLowering (s : State) : State :=
  ((s.setKneel fun k =>
      { k with state := .lowering, armTimer := none, deadline := some (s.paramNat .kneelDeadline) }).requestSnapshot).kerbRequest
    .setKneel

/-- Entry to KNELT. -/
def State.enterKnelt (s : State) : State := s.setKneel fun k => { k with state := .knelt, deadline := none }

/-- Entry to PAUSED. -/
def State.enterPaused (s : State) : State :=
  (s.setKneel fun k => { k with state := .paused, deadline := none }).kerbRequest .freeze

/-- Entry to RAISING. -/
def State.enterRaising (s : State) : State :=
  (s.setKneel fun k => { k with state := .raising, deadline := some (s.paramNat .kneelDeadline) }).kerbRequest
    .returnToRide

/-- KNEEL_FAULT withdrawn and its post record cleared where the record is SET (R136, R145). -/
def State.dropKneelFault (s : State) : State :=
  if s.kneel.faultPosted then (s.withdrawLimit .kneelFault).setKneel fun k => { k with faultPosted := false } else s

/-- Entry to RIDE, made in band or not. -/
def State.enterRide (s : State) (inBand : Bool) : State :=
  let s' := ((s.setKneel fun k => { k with state := .ride, armTimer := none, deadline := none }).withdrawReason
    .kneel).clearSnapshot
  if inBand then s'.dropKneelFault else s'

/-! ## Re-evaluation (R137 to R145) -/

/-- The two conditions for ARMING from RIDE (R138). -/
def State.mayArm (s : State) : Bool := !s.kerbCorners.isEmpty && s.speedBelow (s.param .vDoor)

/-- A re-evaluation: at most one transition, the first whose condition holds. -/
def State.kneelReevaluate (s : State) (ask : KneelAsk) : State :=
  match s.kneel.state with
  | .ride =>
    let s' := if s.kneel.faultPosted ∧ s.allInBand then s.dropKneelFault else s
    if ask = .kneel ∧ s.mayArm then s'.enterArming else s'
  | .arming => if ask = .raise then s.enterRide false else if s.kneelLowerOpen then s.enterLowering else s
  | .lowering =>
    if s.raiseNow ask then s.enterRaising
    else if !s.guardClear || s.kerbFault then s.enterPaused
    else if s.allInBand then s.enterKnelt else s
  | .knelt => if s.raiseNow ask then s.enterRaising else s
  | .paused =>
    if s.raiseNow ask then s.enterRaising
    else if ask = .kneel ∧ s.guardClear ∧ s.kneelLowerOpen then s.enterLowering else s
  | .raising =>
    if ask = .kneel ∧ s.kneelLowerOpen then s.enterLowering else if s.allInBand then s.enterRide true else s

/-- A KNEEL trigger (R137). -/
def State.kneelTrigger (s : State) : State := s.kneelReevaluate s.kneelSwitch

/-- A LEVEL_AXLE trigger of an axle that carries a kerb corner (R137). -/
def State.kneelLevelTrigger (s : State) : State := s.kneelReevaluate .nothing

/-- A release notice of the door interlock unit (R138). -/
def State.releaseNotice (s : State) : State :=
  if s.kneel.state = .ride ∧ s.autoKneel ∧ s.mayArm then s.enterArming else s

/-! ## Timers (R140, R142, R146) -/

/-- The expiry of the arm timer. -/
def State.kneelArmExpiry (s : State) : State :=
  if s.kneel.armTimer = none then s
  else
    match s.kneel.state with
    | .arming => (s.enterRide false).latchKneel fun f => { f with armTimeout := true }
    | .ride => s.setKneel fun k => { k with armTimer := none }
    | .lowering => s.setKneel fun k => { k with armTimer := none }
    | .knelt => s.setKneel fun k => { k with armTimer := none }
    | .paused => s.setKneel fun k => { k with armTimer := none }
    | .raising => s.setKneel fun k => { k with armTimer := none }

/-- The expiry of the deadline timer. -/
def State.kneelDeadlineExpiry (s : State) : State :=
  if s.kneel.deadline = none then s
  else
    match s.kneel.state with
    | .lowering => s.enterPaused.latchKneel fun f => { f with kneelTimeout := true }
    | .raising =>
      (((s.enterRide false).latchKneel fun f => { f with raiseTimeout := true }).postLimit .kneelFault).setKneel
        fun k => { k with faultPosted := true }
    | .ride => s.setKneel fun k => { k with deadline := none }
    | .arming => s.setKneel fun k => { k with deadline := none }
    | .knelt => s.setKneel fun k => { k with deadline := none }
    | .paused => s.setKneel fun k => { k with deadline := none }

/-! ## Table applications (R147) -/

/-- The kerb target request that matches the kneel state (R147). -/
def requestOfState : KneelState → KerbRequest
  | .lowering => .setKneel
  | .knelt => .setKneel
  | .paused => .freeze
  | .arming => .returnToRide
  | .raising => .returnToRide
  | .ride => .returnToRide

/-- The sequencer at an application of the CORNER table, after the level controller (R147). -/
def State.kneelCornerApplied (s : State) : State := s.kerbRequest (requestOfState s.kneel.state)

/-- The sequencer at a cycle mark in RUN that applied a CORNER table or at which the part entered RUN (R135, R137,
R147). -/
def State.kneelMark (s : State) (enteredRun : Bool) : State :=
  let s' := if enteredRun then s.setKneel fun k => { k with deadline := some (s.paramNat .kneelDeadline) } else s
  s'.kneelReevaluate .nothing

end Sys2Proof.Machine
end

