-- ==== Sys2Proof/Machine/DoorUnit.lean ====
section
/-! DEFINITION. The door interlock unit (Chapter 9). -/

namespace Sys2Proof.Machine

/-! ## Records -/

/-- The record of a door. -/
def State.door (s : State) (d : Door) : DoorRecord := s.doors.records.get d

/-- The state with one door record replaced. -/
def State.setDoor (s : State) (d : Door) (r : DoorRecord) : State :=
  { s with doors := { s.doors with records := s.doors.records.set d r } }

/-- The unit's fault set changed. -/
def State.latchDoor (s : State) (f : DoorFaults → DoorFaults) : State :=
  { s with doors := { s.doors with faults := f s.doors.faults } }

/-- An event kind latched where the door's mask holds it (R162). -/
def State.latchEvent (s : State) (d : Door) (k : DoorEvent) : State :=
  if (s.doorParams d).mask.has k then s.setDoor d { s.door d with latch := (s.door d).latch.add k } else s

/-- Event kinds latched one after another. -/
def State.latchEvents (s : State) (d : Door) (ks : List DoorEvent) : State := ks.foldl (fun s k => s.latchEvent d k) s

/-- A door's member kept in step with its record (R155). -/
def State.syncReason (s : State) (d : Door) : State :=
  if (s.door d).state = .locked ∧ !(s.door d).armed then s.withdrawReason (.door d) else s.postReason (.door d)

/-- A record's change of state: leaving LOCKED disarms, leaving CLOSING and RELEASED stops their timers (R157). -/
def DoorRecord.goTo (r : DoorRecord) (t : DoorState) : DoorRecord :=
  { r with
    state := t
    armed := r.armed && decide (t = .locked)
    armTimer := if t = .locked then r.armTimer else none
    lockProof := if t = .closing then r.lockProof else none
    releaseHold := if t = .released then r.releaseHold else none }

/-! ## The gate and the commands -/

/-- The DOOR_RELEASE gate (R154). -/
def State.doorGateOpen (s : State) : Bool :=
  s.inRun && s.speedBelow (s.param .vDoor) && s.notReverse && s.board.haltConfirmed
    && decide (s.kneel.state ≠ .raising) && s.rulePart .doorRelease

/-- The command of a door from its state after an event, whether it entered the state at the event, and the gate
(R156). -/
def doorCommand (t : DoorState) (entered gate : Bool) : DoorCommand :=
  match t with
  | .unproven => .hold
  | .locked => .lock
  | .released => .unlock
  | .opening => if gate then .open else .hold
  | .open => if entered then .hold else if gate then .open else .hold
  | .closing => .close
  | .reversing => if entered then .open else if gate then .open else .hold
  | .absent => .hold

/-- Command codes (12.6). -/
def doorCommandCode : DoorCommand → Nat
  | .hold => 0
  | .lock => 1
  | .unlock => 2
  | .open => 3
  | .close => 4

/-- The record after the admission of a command: the last admitted command, and the timers of R159 and R161. -/
def DoorRecord.admitted (r : DoorRecord) (p : DoorParams) (c : DoorCommand) : DoorRecord :=
  { r with
    lastCommand := some c
    releaseHold := if c = .unlock ∧ r.state = .released ∧ r.releaseHold = none then some p.releaseHold else r.releaseHold
    lockProof := if c = .close ∧ r.state = .closing ∧ r.lockProof = none then some p.lockProof else r.lockProof }

/-- A command offered as a one-frame set to the Port D priority queue (R156). -/
def State.offerDoor (s : State) (d : Door) (c : DoorCommand) : State :=
  match s.offerSet .d .priority (s.emitFrames [(.door d, byte (doorCommandCode c))]) with
  | some t => t.setDoor d ((t.door d).admitted (t.doorParams d) c)
  | none => s.latchDoor fun f => { f with egressDrop := true }

/-- What follows every transition of a door: its member in step, and a release notice at an entry to RELEASED (R155). -/
def State.afterTransition (s : State) (d : Door) (before : DoorState) : State :=
  let s' := s.syncReason d
  if (s.door d).state = .released ∧ before ≠ .released then s'.releaseNotice else s'

/-! ## Losing the position (R163) -/

/-- A door loses its position. At a FIT application no LOCK_LOST is latched (R165). -/
def State.losePosition (s : State) (d : Door) (fitApplied : Bool) : State :=
  let r := s.door d
  if r.state = .absent then s
  else
    let s1 := s.setDoor d
      { r with state := .unproven, armed := false, armTimer := none, lockProof := none, releaseHold := none,
               candidate := none, settled := none, debounce := 0 }
    let s2 := if r.state = .locked ∧ !fitApplied then s1.latchEvent d .lockLost else s1
    let s3 := if s.lostSlot (slotDoorPosition d) ∧ !fitApplied then s2.latchDoor fun f => { f with signalLost := true }
              else s2
    (s3.syncReason d).offerDoor d .hold

/-! ## The DOOR d trigger (R151) -/

/-- The position named by a slot value (2.1). -/
def positionOf (v : Int) : DoorPosition :=
  if v = 0 then .closedLocked else if v = 1 then .closedUnlocked else if v = 2 then .moving
  else if v = 3 then .fullOpen else .fault

/-- Debouncing: the record, and the newly settled position at a settled event (R152). -/
def DoorRecord.debounced (r : DoorRecord) (limit : Nat) (p : DoorPosition) : DoorRecord × Option DoorPosition :=
  let count := if r.candidate = some p then min (r.debounce + 1) limit else 1
  let r' := { r with candidate := some p, debounce := count }
  if limit ≤ count ∧ r.settled ≠ some p then ({ r' with settled := some p }, some p) else (r', none)

/-- Whether an edge sample is an obstruction event under an edge specification (R153). -/
def edgeEvent (e : EdgeSpec) (last : Option Bool) (sample : Bool) : Bool :=
  match e with
  | .rise => decide (last = some false) && sample
  | .fall => decide (last = some true) && !sample
  | .both => decide (last = some (!sample))
  | .level => sample

/-- The edge sample of a trigger: none where DOOR_EDGE_d does not count as VALID (R153). -/
def State.edgeSample (s : State) (d : Door) : Option Bool := (s.readInt (slotDoorEdge d)).map fun v => decide (v = 1)

/-- The obstruction event of a trigger: from the sample, or from its loss while the door is CLOSING (R153). -/
def obstructionEvent (e : EdgeSpec) (r : DoorRecord) (sample : Option Bool) : Bool :=
  match sample with
  | some x => edgeEvent e r.lastEdge x
  | none => decide (r.state = .closing)

/-- What a transition does: the new state, the new reversal count, the events latched, and whether OBSTRUCTED is
latched. -/
structure DoorStep where
  state : DoorState
  reversals : Nat
  events : List DoorEvent
  obstructed : Bool
  deriving DecidableEq, Repr

/-- The transition of a settled event (R157), none where the state is unchanged. -/
def settledStep (r : DoorRecord) (p : DoorPosition) : Option DoorStep :=
  match p with
  | .fault =>
    some { state := .unproven, reversals := r.reversals, obstructed := false
           events := if r.state = .locked then [.positionFault, .lockLost] else [.positionFault] }
  | .closedLocked =>
    if r.state = .locked then none else some { state := .locked, reversals := 0, events := [], obstructed := false }
  | .fullOpen =>
    match r.state with
    | .locked => some { state := .unproven, reversals := r.reversals, events := [.lockLost], obstructed := false }
    | .open => none
    | .absent => none
    | .unproven => some { state := .open, reversals := r.reversals, events := [], obstructed := false }
    | .released => some { state := .open, reversals := r.reversals, events := [], obstructed := false }
    | .opening => some { state := .open, reversals := r.reversals, events := [], obstructed := false }
    | .closing => some { state := .open, reversals := r.reversals, events := [], obstructed := false }
    | .reversing => some { state := .open, reversals := r.reversals, events := [], obstructed := false }
  | .closedUnlocked =>
    if r.state = .locked then
      some { state := .unproven, reversals := r.reversals, events := [.lockLost], obstructed := false }
    else none
  | .moving =>
    if r.state = .locked then
      some { state := .unproven, reversals := r.reversals, events := [.lockLost], obstructed := false }
    else none

/-- The transition of a trigger without a settled transition (R158 to R162), none where the state is unchanged. An armed
door is released only at a trigger without a settled event (R158). -/
def triggerStep (r : DoorRecord) (gate obstruction settledEvent : Bool) (maxReversals : Nat) : Option DoorStep :=
  match r.state with
  | .locked =>
    if r.armed ∧ gate ∧ !settledEvent then some { state := .released, reversals := r.reversals, events := [], obstructed := false }
    else none
  | .released =>
    if gate then none else some { state := .closing, reversals := r.reversals, events := [], obstructed := false }
  | .opening =>
    if r.settled = some .fullOpen then
      some { state := .open, reversals := r.reversals, events := [], obstructed := false }
    else none
  | .closing =>
    if obstruction then
      if r.reversals < maxReversals then
        some { state := .reversing, reversals := r.reversals + 1, events := [.obstruction, .reversal],
               obstructed := false }
      else some { state := .open, reversals := r.reversals, events := [.obstruction], obstructed := true }
    else none
  | .reversing =>
    if r.settled = some .fullOpen then
      some { state := .open, reversals := r.reversals, events := [], obstructed := false }
    else none
  | .unproven => none
  | .open => none
  | .absent => none

/-- A transition carried out on a door's record and latches. -/
def State.stepDoor (s : State) (d : Door) (r : DoorRecord) (t : Option DoorStep) : State :=
  match t with
  | none => s.setDoor d r
  | some x =>
    let s1 := s.setDoor d { r.goTo x.state with reversals := x.reversals }
    let s2 := s1.latchEvents d x.events
    if x.obstructed then s2.latchDoor fun f => { f with obstructed := true } else s2

/-- Whether ROLL is judged in a state (R160). -/
def rollState : DoorState → Bool
  | .opening => true
  | .open => true
  | .reversing => true
  | .unproven => false
  | .locked => false
  | .released => false
  | .closing => false
  | .absent => false

/-- Steps 2 to 4 of a DOOR d trigger on the record: the record after debouncing and edge, and the transition taken
(R151). -/
def State.triggerOutcome (s : State) (d : Door) (position : Int) : DoorRecord × Option DoorStep :=
  let p := s.doorParams d
  let r := s.door d
  let (r1, event) := r.debounced p.debounce (positionOf position)
  let sample := s.edgeSample d
  let obstruction := obstructionEvent p.edge r1 sample
  let r2 := { r1 with lastEdge := sample }
  let settled := match event with
    | some x => settledStep r2 x
    | none => none
  match settled with
  | some x => (r2, some x)
  | none => (r2, triggerStep r2 s.doorGateOpen obstruction event.isSome p.maxReversals)

/-- A DOOR d trigger (R151). -/
def State.doorTrigger (s : State) (d : Door) : State :=
  let before := (s.door d).state
  if before = .absent then s
  else
    match s.readInt (slotDoorPosition d) with
    | none => s.losePosition d false
    | some position =>
      let (r, step) := s.triggerOutcome d position
      let s1 := (s.stepDoor d r step).afterTransition d before
      let after := (s1.door d).state
      let s2 := if rollState after ∧ s.speedAtLeast (s.param .vDoor) then s1.latchEvent d .roll else s1
      s2.offerDoor d (doorCommand after step.isSome s.doorGateOpen)

/-! ## Requests (R158 to R162) -/

/-- A door request (2.1, slots 27 to 31). -/
inductive DoorAsk where
  | release | open | close
  deriving DecidableEq, Repr

/-- The request that DOOR_REQUEST_d carries; none for NONE and for a slot that does not count as VALID. -/
def State.doorAsk (s : State) (d : Door) : Option DoorAsk :=
  match s.readInt (slotDoorRequest d) with
  | some v => if v = 1 then some .release else if v = 2 then some .open else if v = 3 then some .close else none
  | none => none

/-- The state that a request takes a door to, none where its state stands (R158 to R162). -/
def requestStep (t : DoorState) (q : DoorAsk) (gate : Bool) : Option DoorState :=
  match t, q with
  | .unproven, .close => some .closing
  | .released, .open => if gate then some .opening else none
  | .released, .close => some .closing
  | .opening, .close => some .closing
  | .open, .close => some .closing
  | .closing, .open => if gate then some .opening else none
  | .reversing, .close => some .closing
  | _, _ => none

/-- The armed flag and its timer at a request in LOCKED (R158). -/
def DoorRecord.arm (r : DoorRecord) (q : DoorAsk) (timeout : Nat) : DoorRecord :=
  match q with
  | .release => if r.armed then r else { r with armed := true, armTimer := some timeout }
  | .open => if r.armed then r else { r with armed := true, armTimer := some timeout }
  | .close => if r.armed then { r with armed := false, armTimer := none } else r

/-- A transition of a door outside its trigger, with its command (R155, R156). -/
def State.moveDoor (s : State) (d : Door) (t : DoorState) (gate : Bool) : State :=
  let before := (s.door d).state
  ((s.setDoor d ((s.door d).goTo t)).afterTransition d before).offerDoor d (doorCommand t true gate)

/-- A slot notice for DOOR_REQUEST_d (R158 to R162). -/
def State.doorRequest (s : State) (d : Door) : State :=
  let r := s.door d
  match s.doorAsk d with
  | none => s
  | some q =>
    match r.state with
    | .absent => s
    | .locked => (s.setDoor d (r.arm q (s.paramNat .doorArmTimeout))).syncReason d
    | _ =>
      match requestStep r.state q s.doorGateOpen with
      | some t => s.moveDoor d t s.doorGateOpen
      | none => s

/-! ## Timers (R158, R159, R161) -/

/-- The expiry of a door's arm timer. -/
def State.doorArmExpiry (s : State) (d : Door) : State :=
  let r := s.door d
  if r.armTimer = none then s
  else if r.armed then
    ((s.setDoor d { r with armed := false, armTimer := none }).syncReason d).latchDoor fun f => { f with armTimeout := true }
  else s.setDoor d { r with armTimer := none }

/-- The expiry of a door's lock-proof timer. -/
def State.lockProofExpiry (s : State) (d : Door) : State :=
  let r := s.door d
  if r.lockProof = none then s
  else if r.state = .closing then
    ((s.setDoor d (r.goTo .unproven)).latchEvent d .lockNotProven |>.syncReason d).offerDoor d .hold
  else s.setDoor d { r with lockProof := none }

/-- The expiry of a door's release-hold timer. -/
def State.releaseHoldExpiry (s : State) (d : Door) : State :=
  let r := s.door d
  if r.releaseHold = none then s
  else if r.state = .released then s.moveDoor d .closing s.doorGateOpen
  else s.setDoor d { r with releaseHold := none }

/-! ## Table applications (R165) -/

/-- One door at an application of the DOOR table; the new table is active already (R165). -/
def State.doorApplied (s : State) (d : Door) : State :=
  let p := s.doorParams d
  let r := s.door d
  if !p.fitted then (s.setDoor d (.reset .absent)).withdrawReason (.door d)
  else if r.state = .absent then (s.setDoor d (.reset .unproven)).postReason (.door d)
  else s.setDoor d { r with debounce := min r.debounce p.debounce, reversals := min r.reversals p.maxReversals }

/-- The door unit and the board at an application of the DOOR table (R43, R165). -/
def State.doorsApplied (s : State) : State := PerDoor.all.foldl (fun s d => s.doorApplied d) s

end Sys2Proof.Machine
end

