-- ==== Sys2Proof/Machine/Steering.lean ====
section
/-! DEFINITION. The track memory, the steering unit and the front-axle limiter (Chapter 4). -/

namespace Sys2Proof.Machine

/-! ## Track memory -/

/-- The mark pitch P in cm. -/
def State.pitch (s : State) : Nat := s.paramNat .pitch

/-- The current path heading, where it is available (R64). -/
def State.pathHeading (s : State) : Option Angle :=
  match s.readAngle slotHeading1, s.readAngle slotFrontAngle with
  | some h, some f => some (h + f)
  | _, _ => none

/-- A mark appended; the oldest goes where there were 256 (R60). -/
def appendMark (marks : List TrackMark) (m : TrackMark) : List TrackMark :=
  (if 256 ≤ marks.length then marks.drop 1 else marks) ++ [m]

/-- `n` marks appended at `at'`, `at'` + P, and so on, all with one heading (R63). -/
def appendMarks (pitch : Nat) (heading : Angle) : Nat → Cm → List TrackMark → List TrackMark
  | 0, _, marks => marks
  | n + 1, at', marks =>
    appendMarks pitch heading n (at' + BitVec.ofNat 32 pitch) (appendMark marks { position := at', heading })

/-- An empty queue started at a position, or left empty without a heading (R63, R64). -/
def Track.start (t : Track) (pitch : Nat) (x : Cm) (heading : Option Angle) : Track :=
  match heading with
  | some h => { t with marks := [{ position := x, heading := h }], nextPos := x + BitVec.ofNat 32 pitch }
  | none => { t with marks := [] }

/-- The number of grid points from next_pos up to a position (R63). -/
def gridPoints (pitch : Nat) (nextPos x : Cm) : Nat :=
  let d := posDiff x nextPos
  if d < 0 then 0 else d.toNat / pitch + 1

/-- Forward motion to a position: the track memory, and whether the track was broken (R63, R64). -/
def Track.forward (t : Track) (pitch : Nat) (x : Cm) (heading : Option Angle) : Track × Bool :=
  let t' := { t with lastOdo := some x }
  if t.marks = [] then (t'.start pitch x heading, false)
  else
    let n := gridPoints pitch t.nextPos x
    if n = 0 then (t', false)
    else
      match heading with
      | some h =>
        if n ≤ 8 then
          ({ t' with marks := appendMarks pitch h n t.nextPos t.marks
                     nextPos := t.nextPos + BitVec.ofNat 32 (n * pitch) }, false)
        else (t'.start pitch x heading, true)
      | none => (t'.start pitch x none, true)

/-- An accepted odometer value: jitter, backward or forward motion (R61, R62). -/
def Track.sample (t : Track) (pitch : Nat) (x : Cm) (heading : Option Angle) : Track × Bool :=
  match t.lastOdo with
  | none => t.forward pitch x heading
  | some last =>
    let d := posDiff x last
    if d < -2 then ({ marks := [], lastOdo := some x, nextPos := x }, false)
    else if d ≤ 0 then (t, false)
    else t.forward pitch x heading

/-- The lookup position of a rear axle (R66, R73). -/
def State.lookupPos (s : State) (r : Rear) (odo : Cm) : Cm := odo - BitVec.ofNat 32 (s.axleParams (rearAxle r)).path

/-- Whether a rear axle is covered (R66). -/
def State.covered (s : State) (r : Rear) : Bool :=
  match s.track.lastOdo, s.track.marks with
  | some odo, m :: _ :: _ =>
    let e := posDiff (s.lookupPos r odo) m.position
    decide (0 ≤ e ∧ e < (s.track.marks.length - 1) * s.pitch)
  | _, _ => false

/-- The state with one rear record replaced. -/
def State.setRear (s : State) (r : Rear) (x : RearRecord) : State :=
  { s with steering := { s.steering with rear := s.steering.rear.set r x } }

/-- A rear axle in FOLLOW without coverage becomes CENTRE (R66). -/
def State.checkCoverage (s : State) (r : Rear) : State :=
  let x := s.steering.rear.get r
  if x.mode = .follow ∧ !s.covered r then s.setRear r { x with mode := .centre } else s

/-- Both rear axles' coverage judged after an event that changed the track (R66). -/
def State.checkCoverages (s : State) : State := (s.checkCoverage .a3).checkCoverage .a4

/-- The steering unit's fault set changed. -/
def State.latchSteering (s : State) (f : SteeringFaults → SteeringFaults) : State :=
  { s with steering := { s.steering with faults := f s.steering.faults } }

/-- An ODOMETER trigger (R61 to R66). -/
def State.odometerTrigger (s : State) : State :=
  match s.readSlot slotOdometer with
  | none => s
  | some x =>
    let (t, broken) := s.track.sample s.pitch x s.pathHeading
    let s' := { s with track := t }
    (if broken then s'.latchSteering fun f => { f with trackBroken := true } else s').checkCoverages

/-! ## Rear axles -/

/-- The reason kind of a rear axle (R50). -/
def rearLimit : Rear → LimitKind
  | .a3 => .steerA3
  | .a4 => .steerA4

/-- Whether an input of a rear axle does not count as VALID (R69). -/
def State.inputsMissing (s : State) (r : Rear) : Bool :=
  !(s.present slotHeading1 && s.present (slotJoint .j1) && s.present slotOdometer
    && (decide (r = .a3) || s.present (slotJoint .j2)))

/-- The mode of a rear axle after its mode step (R70, R71, R72). -/
def State.modeStep (s : State) (r : Rear) : AxleMode :=
  let mayFollow := s.covered r && s.notReverse
  if s.inputsMissing r || s.disagrees (.steer r) then .locked
  else
    match (s.steering.rear.get r).mode with
    | .locked => if s.stationary then .centre else .locked
    | .centre => if mayFollow then .follow else .centre
    | .follow => if mayFollow then .follow else .centre

/-- The path heading at a lookup position, interpolated between two marks (R73, R74). -/
def pathHeadingAt (marks : List TrackMark) (pitch : Nat) (e : Nat) : Angle :=
  let k := e / pitch
  let f := e % pitch
  let a := (marks[k]?).getD { position := 0, heading := 0 }
  let b := (marks[k + 1]?).getD a
  a.heading + BitVec.ofInt 16 ((wd b.heading a.heading * f).tdiv pitch)

/-- The heading of the section above a rear axle (R75). -/
def State.sectionHeading (s : State) (r : Rear) : Angle :=
  let h := (s.readAngle slotHeading1).getD 0
  let j1 := (s.readAngle (slotJoint .j1)).getD 0
  let j2 := (s.readAngle (slotJoint .j2)).getD 0
  match r with
  | .a3 => h - j1
  | .a4 => h - j1 - j2

/-- The raw demand of a rear axle in FOLLOW (R73 to R75). -/
def State.rawDemand (s : State) (r : Rear) : Int :=
  match s.track.lastOdo, s.track.marks with
  | some odo, m :: _ =>
    let e := (posDiff (s.lookupPos r odo) m.position).toNat
    wd (pathHeadingAt s.track.marks s.pitch e) (s.sectionHeading r)
  | _, _ => 0

/-- The gain schedule of a rear axle. -/
def gainSchedule : Rear → ScheduleName
  | .a3 => .gainA3
  | .a4 => .gainA4

/-- The limit schedule of a rear axle. -/
def limitSchedule : Rear → ScheduleName
  | .a3 => .limA3
  | .a4 => .limA4

/-- The absolute steer limit of 25.0 degrees, in bau. -/
def steerLimit : Int := 4551

/-- The limit M_i of a rear axle at an event (R77). -/
def State.rearBound (s : State) (r : Rear) : Int := min (s.readSchedule (limitSchedule r)) steerLimit

/-- The demand of a rear axle before the rate stage, in FOLLOW (R76, R77) or in CENTRE (R78). -/
def State.rearDemand (s : State) (r : Rear) (mode : AxleMode) : Int :=
  match mode with
  | .follow => clampSym (s.rearBound r) ((s.rawDemand r * s.readSchedule (gainSchedule r)).tdiv 1024)
  | .centre => 0
  | .locked => 0

/-- The command of a rear axle (R80). -/
inductive SteerCommand where
  | angle (x : Int)
  | lock
  deriving DecidableEq, Repr

/-- The demand brought within a rate of the last angle command (R79). -/
def rateStage (last demand : Int) (rate : Nat) : Int := clampInt (last - rate) (last + rate) demand

/-- The command of a rear axle in a mode, and whether the limit was escaped (R79). -/
def State.rearCommand (s : State) (r : Rear) (mode : AxleMode) : SteerCommand × Bool :=
  if mode = .locked then (.lock, false)
  else
    let x := rateStage (s.steering.rear.get r).lastAngle (s.rearDemand r mode) (s.axleParams (rearAxle r)).rate
    if (x.natAbs : Int) ≤ s.rearBound r then (.angle x, false) else (.lock, true)

/-- One rear axle settled at a STEER trigger: mode, speed-limit kind, fault, and its command (R69 to R79). -/
def State.settleRear (s : State) (r : Rear) : State × SteerCommand :=
  let before := (s.steering.rear.get r).mode
  let stepped := s.modeStep r
  let (cmd, escaped) := s.rearCommand r stepped
  let mode := if escaped then .locked else stepped
  let s1 := s.setRear r { s.steering.rear.get r with mode := mode }
  let s2 := if escaped then s1.latchSteering fun f => { f with limitEscape := true } else s1
  let s3 := if mode = .locked then s2.postLimit (rearLimit r)
            else if before = .locked then s2.withdrawLimit (rearLimit r) else s2
  (s3, cmd)

/-- The angle that an admitted command leaves as last angle command (R81). -/
def commandAngle : SteerCommand → Int
  | .angle x => x
  | .lock => 0

/-- The data of a steer frame (12.6). -/
def steerData : SteerCommand → List Byte
  | .angle x => byte 0 ++ halfInt x
  | .lock => byte 1 ++ half 0

/-- The record of a rear axle and its echo record after the admission of a command (R81, R167). -/
def State.steerEmitted (s : State) (r : Rear) (c : SteerCommand) : State :=
  (s.setRear r { s.steering.rear.get r with lastAngle := commandAngle c }).echoEmission (.steer r) (commandAngle c)

/-- A steer set offered to the Port D priority queue (R80, R81). -/
def State.offerSteer (s : State) (c3 c4 : SteerCommand) : State :=
  match s.offerSet .d .priority (s.emitFrames [(.steer .a3, steerData c3), (.steer .a4, steerData c4)]) with
  | some t => (t.steerEmitted .a3 c3).steerEmitted .a4 c4
  | none => s.latchSteering fun f => { f with egressDrop := true }

/-- The steering unit at a STEER trigger (R69 to R81). -/
def State.steerTrigger (s : State) : State :=
  let (s3, c3) := s.settleRear .a3
  let (s4, c4) := s3.settleRear .a4
  s4.offerSteer c3 c4

/-- One rear axle locked (R82). -/
def State.lockRear (s : State) (r : Rear) : State :=
  (s.setRear r { s.steering.rear.get r with mode := .locked }).postLimit (rearLimit r)

/-- The steering unit at a cycle mark in RUN (R82). -/
def State.steerMark (s : State) : State :=
  if s.present (slotJoint .j1) then s else ((s.lockRear .a3).lockRear .a4).offerSteer .lock .lock

/-! ## Front-axle limiter -/

/-- The limiter's result for a requested A1 angle (R84). -/
def State.limitFront (s : State) (q : Int) : Int :=
  let q1 := clampSym (min (s.readSchedule .limA1) steerLimit) q
  let r1 := s.readSchedule .rateA1
  match s.steering.limiter with
  | some p => clampInt (p - r1) (p + r1) q1
  | none =>
    match s.readAngle slotFrontAngle with
    | some f =>
      let p := clampSym steerLimit f.toInt
      clampInt (p - r1) (p + r1) q1
    | none => q1

end Sys2Proof.Machine
end

