-- ==== Sys2Proof/Machine/Operands.lean ====
section
/-! DEFINITION. The operands of a management request: the parameters that 12.6 lays out in the request frame, and the
checks of R187 on them. A request is the frame's data after its code byte: byte 1 of the frame stands first. -/

namespace Sys2Proof.Machine

/-- Response status codes (12.6). -/
inductive Status where
  | done | accepted | badRequest | badTable | badIndex | range | pending | sumMismatch | duplicate | incomplete
  | geometry | mismatch | sequence | notStill
  deriving DecidableEq, Repr

/-- Response status codes (12.6). -/
def statusCode : Status → Nat
  | .done => 0
  | .accepted => 1
  | .badRequest => 2
  | .badTable => 3
  | .badIndex => 4
  | .range => 5
  | .pending => 6
  | .sumMismatch => 7
  | .duplicate => 8
  | .incomplete => 9
  | .geometry => 10
  | .mismatch => 11
  | .sequence => 12
  | .notStill => 13

/-- The tag: byte 1 of the frame, 0 where there is none (R186). -/
def tagOf (rest : List Byte) : Byte := rest.headD 0

/-- Byte `i` of the request frame, for `i` at least 1. -/
def paramByte (rest : List Byte) (i : Nat) : Nat := u8 rest (i - 1)

/-- The two-byte parameter at byte `i` of the request frame. -/
def paramHalf (rest : List Byte) (i : Nat) : Nat := u16 rest (i - 1)

/-- Whether the frame's data length reaches `n` bytes (R187, 2). -/
def reaches (rest : List Byte) (n : Nat) : Bool := decide (n ≤ rest.length + 1)

/-- The parameters of a READ or WRITE (R190): where it starts, its count and, for a READ, the copy. -/
structure Access where
  table : TableName
  start : Nat
  mode : AdvanceMode
  count : Nat
  active : Bool
  deriving DecidableEq, Repr

/-- Mode codes; 3 names no mode (12.6). -/
def modeOf (n : Nat) : Option AdvanceMode :=
  match n with
  | 0 => some .table
  | 1 => some .group
  | 2 => some .fixed
  | _ => none

/-- The position that a READ or WRITE is addressed to: the cursor's under CONTINUE, whose other address bits are then
ignored, or else the one that the request names (R190). The table code is checked after the other fields (R187). -/
inductive Address where
  | at' (table : TableName) (start : Nat) (mode : AdvanceMode)
  | noTable
  | noMode
  deriving DecidableEq, Repr

/-- The address of a READ or WRITE (R190; log entry 14). -/
def State.address (s : State) (rest : List Byte) : Address :=
  let b := paramByte rest 2
  if bit b 3 then .at' s.agent.cursor.table s.agent.cursor.index s.agent.cursor.mode
  else
    match modeOf (b / 16 % 4) with
    | none => .noMode
    | some m =>
      match tableOf (b % 8) with
      | none => .noTable
      | some t => .at' t (paramByte rest 3) m

/-- The length of the shortest entry image of a table; for a code that names no table, of the shortest of all (12.7; log
entry 26). -/
def shortestImage : Option TableName → Nat
  | some t => imageSize t
  | none => imageSize .constants

/-- The largest count that a table allows; for a code that names no table, the largest of all (R191; log entry 26). -/
def largestCount : Option TableName → Nat
  | some t => maxCount t
  | none => maxCount .constants

/-- Whether the count of a READ or WRITE is one that its table does not allow, or the frame is too short for the images of
a WRITE: the rest of R187's check 2 (R187, R191, R192). -/
def badExtent (isWrite : Bool) (t : Option TableName) (n : Nat) (rest : List Byte) : Bool :=
  decide (n = 0) || decide (largestCount t < n) || (isWrite && !reaches rest (5 + n * shortestImage t))

/-- The checks 2 to 4 of R187 on a READ or WRITE, check 2 whole before check 3; `isWrite` says that the request carries its
images. -/
def State.accessOf (s : State) (isWrite : Bool) (rest : List Byte) : Except Status Access :=
  let b := paramByte rest 2
  let n := paramByte rest 4
  if !reaches rest 5 || bit b 7 || (isWrite && bit b 6) then .error .badRequest
  else
    match s.address rest with
    | .noMode => .error .badRequest
    | .noTable => if badExtent isWrite none n rest then .error .badRequest else .error .badTable
    | .at' t i m =>
      if badExtent isWrite (some t) n rest then .error .badRequest
      else if tableSize t ≤ i then .error .badIndex
      else .ok { table := t, start := i, mode := m, count := n, active := bit b 6 }

/-- The next position (R190). -/
def nextPosition (t : TableName) (m : AdvanceMode) (p : Nat) : Nat :=
  match m with
  | .table => if tableSize t ≤ p + 1 then 0 else p + 1
  | .group => if t = .corner then (if p % 2 = 0 then p + 1 else p - 1) else p
  | .fixed => p

/-- The `n` positions treated from a start, in turn (R190). -/
def positions (t : TableName) (m : AdvanceMode) : Nat → Nat → List Nat
  | 0, _ => []
  | n + 1, p => p :: positions t m n (nextPosition t m p)

/-- The position after the last one treated (R190). -/
def positionAfter (t : TableName) (m : AdvanceMode) : Nat → Nat → Nat
  | 0, p => p
  | n + 1, p => positionAfter t m n (nextPosition t m p)

/-- The cursor that a performed READ or WRITE leaves (R190). -/
def Access.cursor (a : Access) : Cursor :=
  { table := a.table, index := positionAfter a.table a.mode a.count a.start, mode := a.mode }

/-- The images of a WRITE from byte 5 of the frame, `n` of one size. -/
def imagesFrom (size : Nat) : Nat → List Byte → List (List Byte)
  | 0, _ => []
  | n + 1, bs => bs.take size :: imagesFrom size n (bs.drop size)

/-- The images that a WRITE carries (12.6). -/
def writtenImages (a : Access) (rest : List Byte) : List (List Byte) :=
  imagesFrom (imageSize a.table) a.count (rest.drop 4)

/-- The table named by the whole byte of a SWAP or COMMIT (R187, 3; log entry 12). -/
def tableByte (b : Nat) : Except Status TableName :=
  match tableOf b with
  | some t => .ok t
  | none =>
    if b = 7 then .error .badTable
    else if Config.wideTableCodeIsBadTable (BitVec.ofNat 8 b) then .error .badTable else .error .badRequest

/-- The parameters of a SWAP (12.6). -/
structure SwapArgs where
  table : TableName
  index : Nat
  check : Nat
  image : List Byte
  deriving DecidableEq, Repr

/-- The checks 2 to 4 of R187 on a SWAP, check 2 before check 3: the frame reaches the end of its image, and for a code
that names no table the end of the shortest one (log entry 26). -/
def swapArgs (rest : List Byte) : Except Status SwapArgs :=
  let code := paramByte rest 2
  if !reaches rest (6 + shortestImage (tableOf code)) then .error .badRequest
  else
    match tableByte code with
    | .error e => .error e
    | .ok t =>
      if tableSize t ≤ paramByte rest 3 then .error .badIndex
      else .ok { table := t, index := paramByte rest 3, check := paramHalf rest 4,
                 image := (rest.drop 5).take (imageSize t) }

/-- The table and the expected sum of a COMMIT, after the checks of R187. -/
def commitArgs (rest : List Byte) : Except Status (TableName × Nat) :=
  if !reaches rest 5 then .error .badRequest
  else
    match tableByte (paramByte rest 2) with
    | .error e => .error e
    | .ok t => .ok (t, paramHalf rest 3)

/-- The table mask of a DISCARD, after the checks of R187: bit 7 names no table. -/
def discardMask (rest : List Byte) : Except Status (PerTable Bool) :=
  if !reaches rest 3 then .error .badRequest
  else
    let b := paramByte rest 2
    if bit b 7 then .error .badTable
    else .ok { fit := bit b 0, schedule := bit b 1, axle := bit b 2, corner := bit b 3, door := bit b 4, guard := bit b 5,
               constants := bit b 6 }

/-- The door mask and clear option of an EVENTS request (R195). The layout gives the other bits no value, so they are
ignored (log entry 13). -/
def eventsArgs (rest : List Byte) : Except Status (PerDoor Bool × Bool) :=
  if !reaches rest 4 then .error .badRequest
  else
    let b := paramByte rest 2
    .ok ({ d1 := bit b 0, d2 := bit b 1, d3 := bit b 2, d4 := bit b 3, d5 := bit b 4 }, bit (paramByte rest 3) 0)

/-- The clear option of a STATUS request; bits 1 to 7 are 0 (12.6). -/
def statusArgs (rest : List Byte) : Except Status Bool :=
  if !reaches rest 3 || decide (2 ≤ paramByte rest 2) then .error .badRequest else .ok (bit (paramByte rest 2) 0)

end Sys2Proof.Machine
end

