-- ==== Sys2Proof/Machine/Store.lean ====
section
/-! DEFINITION. The table store (Chapter 11): the sorted form of the active FIT, COMMIT with its cross-checks, DISCARD,
what an in-band reset settles, and what the store does with the pending set at a cycle mark. -/

namespace Sys2Proof.Machine

/-! ## The sorted FIT (R172) -/

/-- The place of an entry's port in the sorted order: U before D before EMIT (R172). -/
def FitRole.rank : FitRole → Nat
  | .arrival .u _ _ _ _ => 0
  | .arrival .d _ _ _ _ => 1
  | .emit _ _ => 2

/-- Whether an entry stands no later than another in the sorted order: by port, then by identifier (R172). -/
def FitEntry.before (a b : FitEntry) : Bool :=
  decide (a.role.rank < b.role.rank) || (decide (a.role.rank = b.role.rank) && decide (a.id.toNat ≤ b.id.toNat))

/-- An entry put into a sorted list, ahead of the entries that it does not follow. -/
def insertEntry (e : FitEntry) : List FitEntry → List FitEntry
  | [] => [e]
  | f :: fs => if e.before f then e :: f :: fs else f :: insertEntry e fs

/-- The entries in sorted order (log entry 28). -/
def sortEntries (es : List FitEntry) : List FitEntry := es.foldr insertEntry []

/-- The used positions of a staged FIT, in index order. -/
def usedEntries (fit : Vector (Option FitEntry) 96) : List FitEntry := fit.toList.filterMap id

/-! ## Sets of tables -/

/-- The members of a set of tables, in table-code order. -/
def tableList (set : PerTable Bool) : List TableName := PerTable.all.filter set.get

/-- The mask of a set of tables: bit `k` for table code `k` (12.6). -/
def tableMask (set : PerTable Bool) : Nat := bitsNat (PerTable.all.map set.get)

/-- Whether a set of tables is empty. -/
def noTables (set : PerTable Bool) : Bool := PerTable.all.all fun t => !set.get t

/-- The motion tables (R180). -/
def TableName.isMotion : TableName → Bool
  | .fit => true
  | .schedule => true
  | .axle => true
  | .corner => false
  | .door => false
  | .guard => false
  | .constants => true

/-- Whether a set holds a motion table. -/
def holdsMotion (set : PerTable Bool) : Bool := PerTable.all.any fun t => set.get t && t.isMotion

/-- The active copies with those of a set of tables replaced by the staged copies, the FIT in its sorted form (R180). -/
def copyTables (st : StagedTables) (act : ActiveTables) (set : PerTable Bool) : ActiveTables :=
  { fit := if set.fit then some (sortEntries (usedEntries st.fit)) else act.fit
    schedule := if set.schedule then some st.schedule else act.schedule
    axle := if set.axle then some st.axle else act.axle
    corner := if set.corner then some st.corner else act.corner
    door := if set.door then some st.door else act.door
    guard := if set.guard then some st.guard else act.guard
    constants := if set.constants then some st.constants else act.constants }

/-- Whether all seven tables have active copies (R183). -/
def ActiveTables.full (act : ActiveTables) : Bool :=
  act.fit.isSome && act.schedule.isSome && act.axle.isSome && act.corner.isSome && act.door.isSome && act.guard.isSome
    && act.constants.isSome

/-! ## COMMIT (R176, R177) -/

/-- The tables that would be active after a commit: the staged copies of the committed table and of the pending set, and
the active copies of the others (R177). -/
def TableStore.combination (ts : TableStore) (t : TableName) : ActiveTables :=
  copyTables ts.staged ts.active (ts.waiting.set t true)

/-- GEOMETRY: 2P ≤ L3 < L4 ≤ 250 P, and without P only L3 < L4; nothing is judged without AXLE (R177). -/
def geometryHolds (c : ActiveTables) : Bool :=
  match c.axle with
  | none => true
  | some v =>
    let l3 := v[axleIndex .a3].path
    let l4 := v[axleIndex .a4].path
    match c.constants with
    | none => decide (l3 < l4)
    | some k =>
      let p := k[Param.pitch.index].toNat
      decide (2 * p ≤ l3 ∧ l3 < l4 ∧ l4 ≤ 250 * p)

/-- The emit kind of an entry, none for an arrival entry. -/
def FitEntry.emitKind (e : FitEntry) : Option EmitKind :=
  match e.role with
  | .arrival _ _ _ _ _ => none
  | .emit k _ => some k

/-- Whether an entry is a SYNC entry. -/
def FitEntry.isSync (e : FitEntry) : Bool :=
  match e.role with
  | .arrival _ cls _ _ _ => decide (cls = .sync)
  | .emit _ _ => false

/-- DUPLICATE does not apply: no pair of port and identifier twice, at most one SYNC entry, no emit kind twice (R177). -/
def noDuplicate (es : List FitEntry) : Bool :=
  decide ((es.map fun e => (e.role.rank, e.id)).Nodup) && decide ((es.filter FitEntry.isSync).length ≤ 1)
    && decide ((es.filterMap FitEntry.emitKind).Nodup)

/-- The emit kinds that every FIT must hold (R177). -/
def requiredKinds : List EmitKind :=
  [.steer .a3, .steer .a4, .damp .j1, .damp .j2, .brake .a1, .brake .a2, .brake .a3, .brake .a4, .valve .a1, .valve .a2,
   .valve .a3, .valve .a4, .chassisState]

/-- The doors that a DOOR table fits. -/
def fittedDoors (v : Vector DoorParams 5) : List Door := PerDoor.all.filter fun d => (v[doorIndex d]).fitted

/-- INCOMPLETE does not apply: the FIT holds every required kind, and the kind of every door that the DOOR table fits; a
missing table leaves its part out (R177). -/
def complete (c : ActiveTables) : Bool :=
  match c.fit with
  | none => true
  | some es =>
    let kinds := es.filterMap FitEntry.emitKind
    let doors := match c.door with
      | none => []
      | some v => fittedDoors v
    requiredKinds.all (fun k => decide (k ∈ kinds)) && doors.all fun d => decide (EmitKind.door d ∈ kinds)

/-- Whether the combination of a commit passes GEOMETRY, DUPLICATE and INCOMPLETE, in that order: the status of the first
that fails (R176, R177). -/
def crossCheck (t : TableName) (c : ActiveTables) : Option Status :=
  if (t = .axle ∨ t = .constants) ∧ !geometryHolds c then some .geometry
  else if t = .fit ∧ !noDuplicate (c.fit.getD []) then some .duplicate
  else if (t = .fit ∨ t = .door) ∧ !complete c then some .incomplete
  else none

/-- The answer to a COMMIT (R176). -/
def TableStore.commitStatus (ts : TableStore) (t : TableName) (sum : Nat) : Status :=
  if ts.waiting.get t then .pending
  else if sum ≠ (ts.sums.get t).toNat then .sumMismatch
  else
    match crossCheck t (ts.combination t) with
    | some e => e
    | none => .accepted

/-- A table joins the pending set (R176). -/
def TableStore.join (ts : TableStore) (t : TableName) : TableStore := { ts with waiting := ts.waiting.set t true }

/-! ## Staged copies -/

/-- A staged copy changed, and the entry sum of its table brought up to date (R173, R175). -/
def TableStore.stage (ts : TableStore) (st : StagedTables) (t : TableName) : TableStore :=
  { ts with staged := st, sums := ts.sums.set t (entrySum st t) }

/-- A staged FIT from an active one: its entries at the positions from 0, and the others UNUSED (R182; log entry 29). -/
def stagedFit (es : List FitEntry) : Vector (Option FitEntry) 96 := Vector.ofFn fun i => es[i.val]?

/-- The staged copy of one table restored from the active copy, or blank where that is ABSENT (R182). -/
def restoreTable (st : StagedTables) (act : ActiveTables) (t : TableName) : StagedTables :=
  match t with
  | .fit => { st with fit := (act.fit.map stagedFit).getD StagedTables.blank.fit }
  | .schedule => { st with schedule := act.schedule.getD StagedTables.blank.schedule }
  | .axle => { st with axle := act.axle.getD StagedTables.blank.axle }
  | .corner => { st with corner := act.corner.getD StagedTables.blank.corner }
  | .door => { st with door := act.door.getD StagedTables.blank.door }
  | .guard => { st with guard := act.guard.getD StagedTables.blank.guard }
  | .constants => { st with constants := act.constants.getD StagedTables.blank.constants }

/-! ## Cancelling, applying, refusing -/

/-- The pending set emptied; where it held a table, the outcome records it as CANCELLED (R182, R184). -/
def TableStore.cancel (ts : TableStore) : TableStore :=
  if noTables ts.waiting then ts
  else
    { ts with waiting := PerTable.const false
              outcome := { tables := ts.waiting, result := .cancelled, epochs := ts.epochs } }

/-- A DISCARD (R182). -/
def TableStore.discard (ts : TableStore) (mask : PerTable Bool) : TableStore :=
  (tableList mask).foldl (fun ts t => ts.stage (restoreTable ts.staged ts.active t) t) ts.cancel

/-- What an in-band reset does to the store (R184). -/
def TableStore.inBandReset (ts : TableStore) : TableStore := { ts.cancel with hold := false }

/-- The epochs with those of a set of tables raised by 1 modulo 16 (R180). -/
def raiseEpochs (epochs : PerTable (BitVec 4)) (set : PerTable Bool) : PerTable (BitVec 4) :=
  PerTable.ofFn fun t => if set.get t then epochs.get t + 1 else epochs.get t

/-- The refusal of the pending set (R180). -/
def TableStore.refuse (ts : TableStore) : TableStore :=
  { ts with waiting := PerTable.const false
            outcome := { tables := ts.waiting, result := .refusedNotStill, epochs := ts.epochs } }

/-- The application of the pending set: the copies, the epochs, the outcome, and the part state (R180, R183). -/
def TableStore.apply (ts : TableStore) : TableStore :=
  let act := copyTables ts.staged ts.active ts.waiting
  let epochs := raiseEpochs ts.epochs ts.waiting
  { ts with active := act, epochs, waiting := PerTable.const false
            outcome := { tables := ts.waiting, result := .applied, epochs }
            partState := if act.full then .run else ts.partState }

/-- What the table store does with the pending set at a cycle mark (R180). -/
inductive MarkVerdict where
  | leave | refuse | apply
  deriving DecidableEq, Repr

/-- The verdict on the pending set at a cycle mark (R179, R180). -/
def State.markVerdict (s : State) : MarkVerdict :=
  if s.tables.hold || noTables s.tables.waiting then .leave
  else if holdsMotion s.tables.waiting && s.inRun && !s.stationary then .refuse
  else .apply

end Sys2Proof.Machine
end

