-- ==== Sys2Proof/Machine/Applying.lean ====
section
/-! DEFINITION. Loss notices (R31), and what an application of tables does at the blocks before they act on the mark in
any other way (R181 and the table after it; log entry 6). -/

namespace Sys2Proof.Machine

/-! ## Loss notices (R31) -/

/-- A loss notice: a height slot to the level controller, a door position slot to the door interlock unit, a brake echo
slot to the brake distributor. -/
inductive Loss where
  | height (c : Corner)
  | position (d : Door)
  | brakeEcho (a : Axle)
  deriving DecidableEq, Repr

/-- The loss notice for a slot that leaves VALID; most slots have none. -/
def lossOf (i : SlotId) : Option Loss :=
  match PerCorner.all.find? (fun c => slotHeight c == i), PerDoor.all.find? (fun d => slotDoorPosition d == i),
      PerAxle.all.find? (fun a => slotBrakeEcho a == i) with
  | some c, _, _ => some (.height c)
  | none, some d, _ => some (.position d)
  | none, none, some a => some (.brakeEcho a)
  | none, none, none => none

/-- A loss notice taken by its block (R110, R127, R163, R165). -/
def State.takeLoss (s : State) (fitApplied : Bool) : Loss → State
  | .height c => s.heightLoss c
  | .position d => s.losePosition d fitApplied
  | .brakeEcho _ => s.recomputeHalt

/-- The loss notices of some slots, taken in a free order. -/
def State.takeLosses (s : State) (fitApplied : Bool) (lost : List SlotId) : State :=
  s.takeAll (fun l s => s.takeLoss fitApplied l) (lost.filterMap lossOf)

/-! ## The effects of an application -/

/-- The period of the internal cycle timer: 10 ms in CONFIGURING, CYCLE_PERIOD in RUN (R22). -/
def State.cyclePeriod (s : State) : Nat := if s.inRun then s.paramNat .cyclePeriod else 10

/-- The limits of the posted kinds replaced at an application of CONSTANTS (R52). -/
def State.replaceLimits (s : State) : State :=
  { s with board := { s.board with
      limits := PerKind.ofFn fun k => (s.board.limits.get k).map fun _ => s.paramNat k.param } }

/-- Both last angle commands become 0 (R68). -/
def State.clearLastAngles (s : State) : State :=
  { s with steering := { s.steering with
      rear := PerRear.ofFn fun r => { s.steering.rear.get r with lastAngle := 0 } } }

/-- The pitch of a CONSTANTS copy. -/
def pitchOf (k : Vector Int 32) : Int := k[Param.pitch.index]

/-- Whether a new copy differs from an earlier one in what `f` reads; a table with no earlier copy is not compared
(R65). -/
def changed {α β : Type} [DecidableEq β] (f : α → β) (old new : Option α) : Bool :=
  match old, new with
  | some x, some y => decide (f x ≠ f y)
  | _, _ => false

/-- The path distances L3 and L4 of an AXLE copy. -/
def pathsOf (v : Vector AxleParams 4) : Nat × Nat := (v[axleIndex .a3].path, v[axleIndex .a4].path)

/-- The track queue emptied where an application has changed P, L3 or L4, and coverage judged (R65, R66). -/
def State.trackApplied (s : State) (old : ActiveTables) : State :=
  if changed pitchOf old.constants s.tables.active.constants || changed pathsOf old.axle s.tables.active.axle then
    ({ s with track := { s.track with marks := [] } }).checkCoverages
  else s

/-- The slots that stand VALID. -/
def State.validSlots (s : State) : List SlotId :=
  (List.finRange 64).filter fun i => decide (s.slots[i].validity = .valid)

/-- An application of the FIT: slots, classifier records, limiter, cycle mark source, echo records, rings, and the loss
notices (R24, R30, R31, R133, R165, R166). -/
def State.fitApplied (s : State) : State :=
  let s1 := { s with
    slots := Vector.replicate 64 .reset
    path := { s.path with
      entries := Vector.replicate 96 .reset
      cycle := { sync := .freeRun, timer := some s.cyclePeriod, syncPosted := false } }
    steering := { s.steering with limiter := none }
    echoes := { s.echoes with records := PerEcho.const .reset } }
  let s2 := if s.path.cycle.syncPosted then s1.withdrawLimit .sync else s1
  s2.clearRings.takeLosses true s.validSlots

/-- An effect that takes place only where a condition holds. -/
def State.doIf (s : State) (b : Bool) (f : State → State) : State := if b then f s else s

/-- The effects of an application of a set of tables at the blocks; `old` holds the copies that it replaced (R181). -/
def State.applicationEffects (s : State) (old : ActiveTables) (set : PerTable Bool) : State :=
  let s1 := s.doIf set.door State.doorsApplied
  let s2 := s1.doIf set.corner State.cornerApplied
  let s3 := s2.doIf set.constants State.replaceLimits
  let s4 := s3.doIf (holdsMotion set) State.clearLastAngles
  let s5 := s4.doIf (set.constants || set.axle) fun s => s.trackApplied old
  let s6 := s5.doIf set.fit State.fitApplied
  s6.doIf set.corner State.kneelCornerApplied

/-! ## The table store at a cycle mark -/

/-- What happened to the pending set at a mark: the tables applied, none where nothing was applied, and whether the part
entered RUN. -/
structure MarkReport where
  applied : PerTable Bool
  enteredRun : Bool
  deriving DecidableEq, Repr

/-- The table store at a cycle mark, and the effects of an application at the blocks (R180, R181, R183). -/
def State.storeMark (s : State) : State × MarkReport :=
  match s.markVerdict with
  | .leave => (s, { applied := PerTable.const false, enteredRun := false })
  | .refuse => ({ s with tables := s.tables.refuse }, { applied := PerTable.const false, enteredRun := false })
  | .apply =>
    let t := { s with tables := s.tables.apply }
    (t.applicationEffects s.tables.active s.tables.waiting,
     { applied := s.tables.waiting, enteredRun := !s.inRun && t.inRun })

end Sys2Proof.Machine
end

