-- ==== Sys2Proof/Machine/Flags.lean ====
section
/-! DEFINITION. The ten latched fault sets: their bits (12.6), the summary flags (R57), and what a STATUS request with
the clear option keeps of each, by its members' standing conditions (R25, R58, R86, R97, R114, R134, R148, R164, R171,
R189). -/

namespace Sys2Proof.Machine

/-- The bits of the frame path's set. -/
def PathFaults.bits (f : PathFaults) : List Bool :=
  [f.portBusOffU, f.portBusOffD, f.shortFrame, f.counterRepeat, f.counterJump, f.plausibility, f.sampleLost, f.commandLost,
   f.statusLost, f.syncLost, f.egressDrop]

/-- The bits of the board's set. -/
def BoardFaults.bits (f : BoardFaults) : List Bool := [f.egressDrop]

/-- The bits of the steering unit's set. -/
def SteeringFaults.bits (f : SteeringFaults) : List Bool := [f.trackBroken, f.limitEscape, f.egressDrop]

/-- The bits of the joint unit's set. -/
def JointFaults.bits (f : JointFaults) : List Bool := [f.breachJ1, f.breachJ2, f.egressDrop]

/-- The bits of the distributor's set. -/
def BrakeFaults.bits (f : BrakeFaults) : List Bool := [f.loadFallback, f.demandStale, f.egressDrop]

/-- The bits of the level controller's set. -/
def LevelFaults.bits (f : LevelFaults) : List Bool := [f.heightStale, f.levelSlow, f.egressDrop]

/-- The bits of the kneel sequencer's set. -/
def KneelFaults.bits (f : KneelFaults) : List Bool := [f.armTimeout, f.kneelTimeout, f.raiseTimeout]

/-- The bits of the door unit's set. -/
def DoorFaults.bits (f : DoorFaults) : List Bool := [f.armTimeout, f.obstructed, f.signalLost, f.egressDrop]

/-- The bits of the echo supervisor's set. -/
def EchoFaults.bits (f : EchoFaults) : List Bool := [f.steerDisagree, f.axleDisagree]

/-- The bits of the agent's set. -/
def AgentFaults.bits (f : AgentFaults) : List Bool := [f.egressDrop, f.mgmtDrop]

/-- The ten fault sets' bits in R57 order. -/
def State.faultBits (s : State) : List (List Bool) :=
  [s.path.faults.bits, s.board.faults.bits, s.steering.faults.bits, s.joints.faults.bits, s.brakes.faults.bits,
   s.levels.faults.bits, s.kneel.faults.bits, s.doors.faults.bits, s.echoes.faults.bits, s.agent.faults.bits]

/-- The ten summary flags: a flag is SET while its set is non-empty (R57). -/
def State.summaryFlags (s : State) : List Bool := s.faultBits.map fun bs => bs.any id

/-- The door events pending flag: some fitted door's event latch is non-empty (R57). -/
def State.doorEventsPending (s : State) : Bool :=
  PerDoor.all.any fun d => s.fitted d && decide ((s.doors.records.get d).latch ≠ .empty)

/-- The class of an arrival entry of the active FIT, by its place. -/
def State.entryClass (s : State) (i : Nat) : Option ArrivalClass :=
  match s.fit[i]? with
  | none => none
  | some e =>
    match e.role with
    | .arrival _ cls _ _ _ => some cls
    | .emit _ _ => none

/-- Some slot fed last by an entry of a class is STALE (R25). -/
def State.staleOfClass (s : State) (c : ArrivalClass) : Bool :=
  s.slots.toList.any fun x =>
    decide (x.validity = .stale)
      && (match x.source with
          | some i => decide (s.entryClass i.val = some c)
          | none => false)

/-- The active FIT has a SYNC entry. -/
def State.hasSyncEntry (s : State) : Bool :=
  s.fit.any fun e =>
    match e.role with
    | .arrival _ cls _ _ _ => decide (cls = .sync)
    | .emit _ _ => false

/-- The frame path's members that still stand (R25). -/
def State.standingPath (s : State) : PathFaults :=
  let f := s.path.faults
  { portBusOffU := f.portBusOffU && decide (s.ports.u.link = .busOff)
    portBusOffD := f.portBusOffD && decide (s.ports.d.link = .busOff)
    shortFrame := false, counterRepeat := false, counterJump := false, plausibility := false
    sampleLost := f.sampleLost && s.staleOfClass .sample
    commandLost := f.commandLost && s.staleOfClass .command
    statusLost := f.statusLost && s.staleOfClass .status
    syncLost := f.syncLost && (decide (s.path.cycle.sync = .freeRun) && s.inRun && s.hasSyncEntry)
    egressDrop := false }

/-- The steering unit's members that still stand (R86). -/
def State.standingSteering (s : State) : SteeringFaults :=
  { trackBroken := false
    limitEscape := s.steering.faults.limitEscape
      && PerRear.all.any fun r => decide ((s.steering.rear.get r).mode = .locked)
    egressDrop := false }

/-- The joint unit's members that still stand (R97). -/
def State.standingJoints (s : State) : JointFaults :=
  { breachJ1 := s.joints.faults.breachJ1 && decide (s.joints.records.j1.envelope = .breach)
    breachJ2 := s.joints.faults.breachJ2 && decide (s.joints.records.j2.envelope = .breach)
    egressDrop := false }

/-- The snapshot is PRESENT and was taken with a FALLBACK load (R114). -/
def State.snapshotFallback (s : State) : Bool :=
  match s.brakes.snapshot with
  | some x => x.anyFallback
  | none => false

/-- The distributor's members that still stand (R114). -/
def State.standingBrakes (s : State) : BrakeFaults :=
  { loadFallback := s.brakes.faults.loadFallback
      && ((PerAxle.all.any fun a => decide (s.brakes.sources.get a = .fallback)) || s.snapshotFallback)
    demandStale := s.brakes.faults.demandStale && s.lostSlot slotBrakeDemand
    egressDrop := false }

/-- The level controller's members that still stand (R134). -/
def State.standingLevels (s : State) : LevelFaults :=
  { heightStale := s.levels.faults.heightStale
      && PerCorner.all.any fun c => decide ((s.levels.corners.get c).mode = .fault)
    levelSlow := s.levels.faults.levelSlow && PerCorner.all.any fun c => (s.levels.corners.get c).slow
    egressDrop := false }

/-- The sequencer's members that still stand (R148). -/
def State.standingKneel (s : State) : KneelFaults :=
  { armTimeout := false
    kneelTimeout := s.kneel.faults.kneelTimeout && decide (s.kneel.state = .paused)
    raiseTimeout := s.kneel.faults.raiseTimeout && s.kneel.faultPosted }

/-- The door unit's members that still stand (R164). -/
def State.standingDoors (s : State) : DoorFaults :=
  { armTimeout := false
    obstructed := s.doors.faults.obstructed
      && PerDoor.all.any fun d => s.fitted d && decide ((s.doors.records.get d).state = .open)
          && decide ((s.doors.records.get d).reversals = (s.doorParams d).maxReversals)
    signalLost := s.doors.faults.signalLost
      && PerDoor.all.any fun d => s.fitted d && !s.present (slotDoorPosition d)
    egressDrop := false }

/-- Some echo record of the active FIT is in DISAGREE, among the given kinds (R171). -/
def State.anyDisagree (s : State) (ks : List EchoKind) : Bool :=
  ks.any fun k => (s.echoSpec k).isSome && decide ((s.echoes.records.get k).state = .disagree)

/-- The supervisor's members that still stand (R171). -/
def State.standingEchoes (s : State) : EchoFaults :=
  { steerDisagree := s.echoes.faults.steerDisagree && s.anyDisagree [.steer .a3, .steer .a4]
    axleDisagree := s.echoes.faults.axleDisagree
      && s.anyDisagree [.brake .a1, .brake .a2, .brake .a3, .brake .a4] }

/-- Every fault set without the members whose standing condition no longer holds (R189). -/
def State.clearFaults (s : State) : State :=
  { s with
    path := { s.path with faults := s.standingPath }
    board := { s.board with faults := { egressDrop := false } }
    steering := { s.steering with faults := s.standingSteering }
    joints := { s.joints with faults := s.standingJoints }
    brakes := { s.brakes with faults := s.standingBrakes }
    levels := { s.levels with faults := s.standingLevels }
    kneel := { s.kneel with faults := s.standingKneel }
    doors := { s.doors with faults := s.standingDoors }
    echoes := { s.echoes with faults := s.standingEchoes }
    agent := { s.agent with faults := { egressDrop := false, mgmtDrop := false } } }

end Sys2Proof.Machine
end

