-- ==== Sys2Proof/Machine/Marks.lean ====
section
/-! DEFINITION. Cycle marks (1.8): the chassis state frame (3.6), the blocks' actions at a mark, and the expiry of the
internal cycle timer. -/

namespace Sys2Proof.Machine

/-! ## The chassis state frame (R56, 12.6) -/

/-- Mode codes of a rear axle. -/
def axleModeCode : AxleMode → Nat
  | .centre => 0
  | .follow => 1
  | .locked => 2

/-- Kneel state codes. -/
def kneelCode : KneelState → Nat
  | .ride => 0
  | .arming => 1
  | .lowering => 2
  | .knelt => 3
  | .paused => 4
  | .raising => 5

/-- Door state codes. -/
def doorStateCode : DoorState → Nat
  | .unproven => 0
  | .locked => 1
  | .released => 2
  | .opening => 3
  | .open => 4
  | .closing => 5
  | .reversing => 6
  | .absent => 7

/-- Whether the cycle mark source follows SYNC. -/
def State.followsSync (s : State) : Bool := decide (s.path.cycle.sync = .followingSync)

/-- The bits of a reason set. -/
def ReasonSet.bits (r : ReasonSet) : Nat := bitsNat [r.doors.d1, r.doors.d2, r.doors.d3, r.doors.d4, r.doors.d5, r.kneel]

/-- The halt set and the drive-inhibit set as reported, each in a byte of its own (R42, 12.6). -/
def State.reasonBytes (s : State) : List Byte := byte s.board.haltSet.bits ++ byte s.board.driveInhibit.bits

/-- The code of a door's state. -/
def State.doorCode (s : State) (d : Door) : Nat := doorStateCode (s.door d).state

/-- Seven epochs packed four bits each, FIT in the low half of the first byte. -/
def epochBytes (e : PerTable (BitVec 4)) : List Byte :=
  byte (e.fit.toNat + 16 * e.schedule.toNat) ++ byte (e.axle.toNat + 16 * e.corner.toNat)
    ++ byte (e.door.toNat + 16 * e.guard.toNat) ++ byte e.constants.toNat

/-- The requested limit as reported: 0xFFFF for NONE (R51). -/
def State.limitReport (s : State) : Nat := s.requestedLimit.getD 65535

/-- The 16 data bytes of the chassis state frame, from every block as it stands (R56). -/
def State.chassisData (s : State) : List Byte :=
  byte (bitsNat [s.inRun, s.followsSync, s.board.haltLatch, s.board.haltConfirmed, s.doorEventsPending, s.covered .a3,
      s.covered .a4])
    ++ byte (axleModeCode s.steering.rear.a3.mode + 4 * axleModeCode s.steering.rear.a4.mode
      + 16 * (s.inBreach .j1).toNat + 32 * (s.inBreach .j2).toNat + 64 * (decide (s.levels.ride = .high)).toNat)
    ++ byte (dampingCode s.joints.records.j1.damping + 4 * dampingCode s.joints.records.j2.damping
      + 16 * kneelCode s.kneel.state)
    ++ byte (s.doorCode .d1 + 16 * s.doorCode .d2) ++ byte (s.doorCode .d3 + 16 * s.doorCode .d4) ++ byte (s.doorCode .d5)
    ++ s.reasonBytes
    ++ half s.limitReport ++ half (bitsNat s.summaryFlags) ++ epochBytes s.tables.epochs

/-- The chassis state frame offered at a mark in RUN (R55, R58). -/
def State.offerChassis (s : State) : State :=
  match s.offerSet .u .ordinary (s.emitFrames [(.chassisState, s.chassisData)]) with
  | some t => t
  | none => { s with board := { s.board with faults := { egressDrop := true } } }

/-! ## The actions at a mark -/

/-- The blocks that act on a mark in RUN once the table store has done so, and the cycle mark source at a SYNC mark that
finds it in FREE_RUN (R23, R55, R82, R95, R106, R137). -/
inductive MarkAction where
  | chassis | steering | joints | brakes
  | kneel (enteredRun : Bool)
  | followSync
  deriving DecidableEq, Repr

/-- The cycle mark source becomes FOLLOWING_SYNC: the timer stopped, and SYNC withdrawn where it was posted (R23). -/
def State.followSync (s : State) : State :=
  let s' := if s.path.cycle.syncPosted then s.withdrawLimit .sync else s
  { s' with path := { s'.path with cycle := { sync := .followingSync, timer := none, syncPosted := false } } }

/-- One action at a mark. -/
def State.markAction (s : State) : MarkAction → State
  | .chassis => s.offerChassis
  | .steering => s.steerMark
  | .joints => s.jointMark
  | .brakes => s.brakeMark
  | .kneel entered => s.kneelMark entered
  | .followSync => s.followSync

/-- The actions at a mark in RUN: the kneel sequencer's only where a CORNER table was applied or RUN entered (R137), and
the sync source's only at an accepted SYNC arrival in FREE_RUN that applies no FIT (R23, R24). -/
def markActions (report : MarkReport) (syncFromFreeRun : Bool) : List MarkAction :=
  [.chassis, .steering, .joints, .brakes]
    ++ (if report.applied.corner || report.enteredRun then [.kneel report.enteredRun] else [])
    ++ (if syncFromFreeRun && !report.applied.fit then [.followSync] else [])

/-- A cycle mark: the table store first (R180, R181), then the other blocks in a free order (R56; log entries 4 and 6).
In CONFIGURING no block but the table store acts (R183). -/
def State.cycleMark (s : State) (syncFromFreeRun : Bool) : State :=
  let (t, report) := s.storeMark
  if t.inRun then t.takeAll (fun a s => s.markAction a) (markActions report syncFromFreeRun) else t

/-- The internal cycle timer set. -/
def State.setCycleTimer (s : State) (t : Timer) : State :=
  { s with path := { s.path with cycle := { s.path.cycle with timer := t } } }

/-- The expiry of the internal cycle timer (R22): in FREE_RUN a cycle mark, and the timer restarted with the period as
the mark has left it. While the source follows SYNC the timer is idle (R23), and an idle timer does not expire. -/
def State.cycleExpiry (s : State) : State :=
  if s.path.cycle.timer = none then s
  else
    match s.path.cycle.sync with
    | .followingSync => s.setCycleTimer none
    | .freeRun =>
      let t := s.cycleMark false
      t.setCycleTimer (some t.cyclePeriod)

/-- The cycle mark source at an accepted SYNC arrival in RUN (R23). -/
def State.syncArrival (s : State) : State := s.cycleMark (!s.followsSync)

/-- The cycle mark source at the expiry of the SYNC entry's watch (R23). -/
def State.syncLost (s : State) : State :=
  match s.path.cycle.sync with
  | .freeRun => s
  | .followingSync =>
    let s' := s.postLimit .sync
    { s' with path := { s'.path with
        cycle := { sync := .freeRun, timer := some (s.paramNat .cyclePeriod), syncPosted := true }
        faults := { s'.path.faults with syncLost := true } } }

end Sys2Proof.Machine
end

