-- ==== Sys2Proof/Machine/Resets.lean ====
section
/-! DEFINITION. The three kinds of reset (R197). The commands that wait outside the part, and the count of order choices
drawn, are the model's own and survive a reset (log entry 19). -/

namespace Sys2Proof.Machine

/-- Power-on, and the release of the reset line, with the strap levels then read (R197). -/
def State.hardReset (s : State) (straps : BitVec 3) : State :=
  { State.reset with node := straps, orderCount := s.orderCount, pending := s.pending }

/-- A port after an in-band reset: its link state kept, its queues emptied, an offer that named a frame awaiting its
completion (R1, R26). -/
def PortState.inBandReset (x : PortState) : PortState :=
  { link := x.link, priority := [], ordinary := []
    offer := match x.offer with
      | .empty => .empty
      | .onOffer _ content _ => .awaiting content
      | .awaiting content => .awaiting content }

/-- The members of the reason sets after an in-band reset (R44). -/
def State.resetMembers (s : State) : ReasonSet := { doors := PerDoor.ofFn s.fitted, kneel := true }

/-- The in-band reset (R197): the tables, the part state, the link states and the node number are kept. -/
def State.inBandReset (s : State) : State :=
  { node := s.node
    ports := PerPort.ofFn fun p => (s.ports.get p).inBandReset
    path := .reset s.cyclePeriod
    slots := Vector.replicate 64 .reset
    board := .reset s.resetMembers
    track := .reset
    steering := .reset
    joints := .reset
    brakes := .reset
    levels := .reset
    kneel := .reset (if s.inRun then some (s.paramNat .kneelDeadline) else none)
    doors := .reset fun d => if s.fitted d then .unproven else .absent
    echoes := .reset
    tables := s.tables.inBandReset
    agent := .reset
    orderCount := s.orderCount
    pending := s.pending }

end Sys2Proof.Machine
end

