-- ==== Sys2Proof/Machine/Agent.lean ====
section
/-! DEFINITION. The management agent (Chapter 12): responses, and what each request answers and does. -/

namespace Sys2Proof.Machine

/-! ## Responses (R186, R187) -/

/-- A response: its status and its payload from byte 3 on. -/
structure Reply where
  status : Status
  payload : List Byte
  deriving DecidableEq, Repr

/-- A response without a payload. -/
def bareReply (e : Status) : Reply := { status := e, payload := [] }

/-- The response frame: request code, tag, status and payload, padded with zero bytes (R186, R187). -/
def State.responseFrame (s : State) (code tag : Byte) (r : Reply) : Frame :=
  { id := .ext (responseId s.node)
    data := padFd (code :: tag :: byte (statusCode r.status) ++ r.payload) }

/-- A refused response: EGRESS_DROP and MGMT_DROP latched, and nothing else (R186). -/
def State.responseRefused (s : State) : State :=
  { s with agent := { s.agent with faults := { egressDrop := true, mgmtDrop := true } } }

/-- The reset-arm record CLEAR and its timer idle (R196). -/
def State.disarm (s : State) : State := { s with agent := { s.agent with resetArm := none } }

/-- The response offered to the Port U ordinary queue, and the request's effects at its admission (R186). -/
def State.respond (s : State) (code tag : Byte) (r : Reply) (effect : State → State) : State :=
  match s.offerSet .u .ordinary [s.responseFrame code tag r] with
  | some t => effect t
  | none => s.responseRefused

/-- The same for every request but RESET_ARM and RESET_GO: it also leaves the reset-arm record CLEAR, whatever its status
(R196). -/
def State.answer (s : State) (code tag : Byte) (r : Reply) (effect : State → State) : State :=
  s.respond code tag r fun t => (effect t).disarm

/-- A request answered with a status alone that does nothing. -/
def State.deny (s : State) (code tag : Byte) (e : Status) : State := s.answer code tag (bareReply e) id

/-! ## IDENT, STATUS (12.2) -/

/-- The payload of an IDENT leaf, none above leaf 3 (R188). -/
def identPayload (leaf : Nat) : Option (List Byte) :=
  match leaf with
  | 0 => some (byte 3 ++ half 0x0D17)
  | 1 => some (half 0x0524 ++ byte 0x10)
  | 2 => some (byte 96 ++ byte 64 ++ half 256 ++ byte 16 ++ byte 8 ++ byte 32)
  | 3 => some (byte 4 ++ byte 8 ++ byte 5 ++ byte 2)
  | _ => none

/-- An IDENT request (R188). -/
def State.identRequest (s : State) (rest : List Byte) : State :=
  if !reaches rest 3 then s.deny 1 (tagOf rest) .badRequest
  else
    match identPayload (paramByte rest 2) with
    | some payload => s.answer 1 (tagOf rest) { status := .done, payload } id
    | none => s.deny 1 (tagOf rest) .badRequest

/-- Outcome result codes (12.6). -/
def resultCode : CommitResult → Nat
  | .noResult => 0
  | .applied => 1
  | .refusedNotStill => 2
  | .cancelled => 3

/-- The fields of a STATUS response that R189 lists, as 12.6 places them. -/
def State.statusFields (s : State) : List Byte :=
  byte (bitsNat [s.inRun, s.followsSync, s.tables.hold]) ++ byte (tableMask s.tables.waiting)
    ++ byte (tableMask s.tables.outcome.tables) ++ byte (resultCode s.tables.outcome.result)
    ++ epochBytes s.tables.outcome.epochs ++ s.faultBits.flatMap fun bs => half (bitsNat bs)

/-- The payload of a STATUS response: the fields of R189 and 12.6, and the two reason sets that R42 has STATUS report. R189
and 12.6 give these no place; they stand in bytes 31 and 32, behind the last field, coded as in the chassis state frame
(DESIGN CHOICE, log entry 32). -/
def State.statusPayload (s : State) : List Byte := s.statusFields ++ s.reasonBytes

/-- A STATUS request (R189): the sets are reported before any clearing. -/
def State.statusRequest (s : State) (rest : List Byte) : State :=
  match statusArgs rest with
  | .error e => s.deny 2 (tagOf rest) e
  | .ok clear =>
    s.answer 2 (tagOf rest) { status := .done, payload := s.statusPayload } fun t =>
      if clear then t.clearFaults else t

/-! ## READ, WRITE, SWAP (12.3) -/

/-- The state with the table cursor replaced. -/
def State.setCursor (s : State) (c : Cursor) : State := { s with agent := { s.agent with cursor := c } }

/-- The image of one position of the copy that a READ names; none where the active copy is ABSENT (R191). -/
def State.readImage (s : State) (a : Access) (i : Nat) : Option (List Byte) :=
  if a.active then activeImage s.tables.active a.table i else some (stagedImage s.tables.staged a.table i)

/-- The images of some positions, none where the active copy is ABSENT (R191). -/
def State.readImages (s : State) (a : Access) : List Nat → Option (List Byte)
  | [] => some []
  | i :: is =>
    match s.readImage a i, s.readImages a is with
    | some b, some bs => some (b ++ bs)
    | _, _ => none

/-- A READ request (R191). -/
def State.readRequest (s : State) (rest : List Byte) : State :=
  match s.accessOf false rest with
  | .error e => s.deny 3 (tagOf rest) e
  | .ok a =>
    match s.readImages a (positions a.table a.mode a.count a.start) with
    | none => s.deny 3 (tagOf rest) .badTable
    | some images =>
      s.answer 3 (tagOf rest) { status := .done, payload := byte a.start ++ byte a.count ++ images } fun t =>
        t.setCursor a.cursor

/-- Images written to positions of a staged copy in turn, with the number of coerced values; none for RANGE (R173,
R192). -/
def writeImages (node : BitVec 3) (t : TableName) : List (Nat × List Byte) → StagedTables → Option (StagedTables × Nat)
  | [], st => some (st, 0)
  | (i, bs) :: rest, st =>
    match writeImage node st t i bs with
    | none => none
    | some (st1, n) =>
      match writeImages node t rest st1 with
      | none => none
      | some (st2, m) => some (st2, n + m)

/-- The state with a staged copy changed (R173, R175). -/
def State.stage (s : State) (st : StagedTables) (t : TableName) : State := { s with tables := s.tables.stage st t }

/-- A WRITE request (R192). -/
def State.writeRequest (s : State) (rest : List Byte) : State :=
  match s.accessOf true rest with
  | .error e => s.deny 4 (tagOf rest) e
  | .ok a =>
    if s.tables.waiting.get a.table then s.deny 4 (tagOf rest) .pending
    else
      match writeImages s.node a.table ((positions a.table a.mode a.count a.start).zip (writtenImages a rest))
          s.tables.staged with
      | none => s.deny 4 (tagOf rest) .range
      | some (st, n) =>
        s.answer 4 (tagOf rest)
          { status := .done
            payload := byte a.start ++ byte a.count ++ byte n ++ half (entrySum st a.table).toNat } fun t =>
          (t.stage st a.table).setCursor a.cursor

/-- A SWAP request (R193). -/
def State.swapRequest (s : State) (rest : List Byte) : State :=
  match swapArgs rest with
  | .error e => s.deny 5 (tagOf rest) e
  | .ok a =>
    if s.tables.waiting.get a.table then s.deny 5 (tagOf rest) .pending
    else
      match writeImage s.node s.tables.staged a.table a.index a.image with
      | none => s.deny 5 (tagOf rest) .range
      | some (st, n) =>
        let check := entryCheck s.tables.staged a.table a.index
        if check ≠ a.check then
          s.answer 5 (tagOf rest)
            { status := .mismatch, payload := half check ++ stagedImage s.tables.staged a.table a.index } id
        else
          s.answer 5 (tagOf rest)
            { status := .done, payload := byte n ++ half (entrySum st a.table).toNat } fun t => t.stage st a.table

/-! ## COMMIT, HOLD, RELEASE, DISCARD, EVENTS (12.4) -/

/-- The response to a COMMIT (R194). -/
def TableStore.commitReply (ts : TableStore) (t : TableName) (e : Status) : Reply :=
  match e with
  | .accepted => { status := .accepted, payload := byte (tableMask (ts.join t).waiting) }
  | .sumMismatch => { status := .sumMismatch, payload := half (ts.sums.get t).toNat }
  | _ => bareReply e

/-- A COMMIT request (R176, R194). -/
def State.commitRequest (s : State) (rest : List Byte) : State :=
  match commitArgs rest with
  | .error e => s.deny 6 (tagOf rest) e
  | .ok (t, sum) =>
    let e := s.tables.commitStatus t sum
    s.answer 6 (tagOf rest) (s.tables.commitReply t e) fun u =>
      if e = .accepted then { u with tables := u.tables.join t } else u

/-- The hold flag set or cleared (R179). -/
def State.setHold (s : State) (b : Bool) : State := { s with tables := { s.tables with hold := b } }

/-- A HOLD request (R179). -/
def State.holdRequest (s : State) (rest : List Byte) : State :=
  s.answer 7 (tagOf rest) (bareReply .done) fun t => t.setHold true

/-- A RELEASE request (R179). -/
def State.releaseRequest (s : State) (rest : List Byte) : State :=
  s.answer 8 (tagOf rest) (bareReply .done) fun t => t.setHold false

/-- A DISCARD request (R182). -/
def State.discardRequest (s : State) (rest : List Byte) : State :=
  match discardMask rest with
  | .error e => s.deny 9 (tagOf rest) e
  | .ok mask =>
    s.answer 9 (tagOf rest) (bareReply .done) fun t => { t with tables := t.tables.discard mask }

/-- The code of a door's last admitted command (12.6). -/
def lastCommandCode : Option DoorCommand → Nat
  | some c => doorCommandCode c
  | none => 255

/-- The doors that an EVENTS request reports: those of the mask that are fitted (R195). -/
def State.reportedDoors (s : State) (mask : PerDoor Bool) : PerDoor Bool :=
  PerDoor.ofFn fun d => mask.get d && s.fitted d

/-- The three bytes of one door in an EVENTS response; zero for a door that is not reported (12.6; log entry 15). -/
def State.doorReport (s : State) (reported : PerDoor Bool) (d : Door) : List Byte :=
  if reported.get d then
    byte (eventSetBits (s.door d).latch) ++ byte (s.doorCode d) ++ byte (lastCommandCode (s.door d).lastCommand)
  else [0, 0, 0]

/-- The payload of an EVENTS response (R195, 12.6). -/
def State.eventsPayload (s : State) (reported : PerDoor Bool) : List Byte :=
  byte (bitsNat (PerDoor.all.map reported.get)) ++ PerDoor.all.flatMap (s.doorReport reported)

/-- The latches of some doors emptied (R162, R195). -/
def State.clearLatches (s : State) (ds : PerDoor Bool) : State :=
  { s with doors := { s.doors with
      records := PerDoor.ofFn fun d => if ds.get d then { s.door d with latch := .empty } else s.door d } }

/-- An EVENTS request (R195). -/
def State.eventsRequest (s : State) (rest : List Byte) : State :=
  match eventsArgs rest with
  | .error e => s.deny 10 (tagOf rest) e
  | .ok (mask, clear) =>
    let reported := s.reportedDoors mask
    s.answer 10 (tagOf rest) { status := .done, payload := s.eventsPayload reported } fun t =>
      if clear then t.clearLatches reported else t

/-! ## RESET_ARM, RESET_GO, BAD_REQUEST -/

/-- A RESET_ARM request (R196). -/
def State.resetArmRequest (s : State) (rest : List Byte) : State :=
  s.respond 11 (tagOf rest) (bareReply .done) fun t => { t with agent := { t.agent with resetArm := some 500 } }

/-- The in-band reset with its response, offered to the Port U ordinary queue as the reset has left it; not carried out
where that is refused (R197). -/
def State.resetAnswered (s : State) (rest : List Byte) : State :=
  let t := s.inBandReset
  match t.offerSet .u .ordinary [s.responseFrame 12 (tagOf rest) (bareReply .done)] with
  | some u => u
  | none => s.responseRefused

/-- A RESET_GO request (R196, R197). -/
def State.resetGoRequest (s : State) (rest : List Byte) : State :=
  if s.agent.resetArm = none then s.respond 12 (tagOf rest) (bareReply .sequence) id
  else if s.inRun && !s.stationary then s.respond 12 (tagOf rest) (bareReply .notStill) State.disarm
  else s.resetAnswered rest

/-- A request frame without data or with a code that names no request (R187, check 1). -/
def State.badRequest (s : State) (data : List Byte) : State :=
  s.deny (data.headD 0) (tagOf (data.drop 1)) .badRequest

/-- The expiry of the reset-arm timer (R196). -/
def State.resetArmExpiry (s : State) : State := s.disarm

/-- A management request taken by the agent; the other commands are none (R186). -/
def State.takeRequest (s : State) : Instr → State
  | .ident rest => s.identRequest rest
  | .status rest => s.statusRequest rest
  | .read rest => s.readRequest rest
  | .write rest => s.writeRequest rest
  | .swap rest => s.swapRequest rest
  | .commit rest => s.commitRequest rest
  | .hold rest => s.holdRequest rest
  | .release rest => s.releaseRequest rest
  | .discard rest => s.discardRequest rest
  | .events rest => s.eventsRequest rest
  | .resetArm rest => s.resetArmRequest rest
  | .resetGo rest => s.resetGoRequest rest
  | .badRequest data => s.badRequest data
  | .powerOn _ => s
  | .resetLine _ => s
  | .busOff _ => s
  | .recovery _ => s
  | .transmitComplete _ => s
  | .frameArrival _ _ => s
  | .watchExpiry _ => s
  | .cycleTimerExpiry => s
  | .echoTimerExpiry _ => s
  | .activeSinceExpiry _ => s
  | .kneelArmTimerExpiry => s
  | .kneelDeadlineExpiry => s
  | .doorArmTimerExpiry _ => s
  | .lockProofExpiry _ => s
  | .releaseHoldExpiry _ => s
  | .resetArmTimerExpiry => s

end Sys2Proof.Machine
end

