-- ==== Sys2Proof/Machine/Classifier.lean ====
section
/-! DEFINITION. The frame classifier (1.3 to 1.5): matching, counters, extraction, forwarding with its rewrites, the
triggers and notices of an arrival, and the arrival watches. -/

namespace Sys2Proof.Machine

/-! ## Matching -/

/-- Whether an entry describes frames that arrive on a port. -/
def FitRole.arrivalAt (p : Port) : FitRole → Bool
  | .arrival q _ _ _ _ => decide (q = p)
  | .emit _ _ => false

/-- The place of the active FIT entry of a port that carries an extended identifier (R6). -/
def State.matchEntry (s : State) (p : Port) (id : FrameId) : Option (Fin 96) :=
  match id with
  | .base _ => none
  | .ext x =>
    (List.finRange 96).find? fun i =>
      match s.fit[i.val]? with
      | some e => e.role.arrivalAt p && decide (e.id = x)
      | none => false

/-- Whether a frame is never forwarded: it carries the identifier of an EMIT entry or the management response identifier
(R6). -/
def State.neverForwarded (s : State) (id : FrameId) : Bool :=
  match id with
  | .base _ => false
  | .ext x =>
    decide (x = responseId s.node)
      || s.fit.any fun e =>
          match e.role with
          | .arrival _ _ _ _ _ => false
          | .emit _ _ => decide (e.id = x)

/-- Whether an arrival goes to the management agent (R5). -/
def State.isManagement (s : State) (p : Port) (id : FrameId) : Bool :=
  decide (p = .u ∧ id = .ext (requestId s.node))

/-- The path's fault set changed. -/
def State.latchPath (s : State) (f : PathFaults → PathFaults) : State :=
  { s with path := { s.path with faults := f s.path.faults } }

/-- A frame offered to the ordinary queue of the other port, unchanged (R7, R14). -/
def State.forward (s : State) (p : Port) (f : Frame) : State :=
  match s.offerSet p.other .ordinary [f] with
  | some t => t
  | none => s.latchPath fun x => { x with egressDrop := true }

/-- An unmatched arrival (R7). -/
def State.unmatched (s : State) (p : Port) (f : Frame) : State :=
  match p with
  | .u => s
  | .d => if s.param .defaultUpward = 1 ∧ !s.neverForwarded f.id then s.forward .d f else s

/-! ## Length and counter -/

/-- The bit after a rewrite field, 0 without one. -/
def Rewrite.reach : Rewrite → Nat
  | .noRewrite => 0
  | .clampFront start width => start + width
  | .gateTraction start width => start + width

/-- The number of data bits that an entry needs: its counter, its rewrite field when Forward is YES, and its extractors
(R8). -/
def bitsNeeded (e : FitEntry) (rw : Rewrite) (xs : List Extractor) : Nat :=
  let counter := match e.counter with
    | some start => start + 4
    | none => 0
  let rewrite := if e.forward then rw.reach else 0
  xs.foldl (fun m x => max m (x.start + x.width)) (max counter rewrite)

/-- The outcome of the counter check (R9). -/
inductive CounterVerdict where
  | accepted (jump : Bool)
  | repeated
  deriving DecidableEq, Repr

/-- A counter value against the record (R9). -/
def counterVerdict (record : Option (BitVec 4)) (c : BitVec 4) : CounterVerdict :=
  match record with
  | none => .accepted false
  | some r => if c = r then .repeated else if c = r + 1 then .accepted false else .accepted true

/-- The state with one classifier record changed. -/
def State.setEntry (s : State) (i : Fin 96) (r : EntryRecord) : State :=
  { s with path := { s.path with entries := s.path.entries.set i r } }

/-! ## Extraction (R10) -/

/-- What extraction leaves: the slots, the slots to which a plausible value was stored, the slots that left VALID, and
whether any value was implausible. -/
structure Extraction where
  slots : Vector SignalSlot 64
  stored : List SlotId
  lost : List SlotId
  implausible : Bool
  deriving DecidableEq, Repr

/-- The value that an extractor takes, as a 32-bit pattern, and whether it is plausible (R10). -/
def Extractor.take (x : Extractor) (data : List Byte) : SlotWord × Bool :=
  let n := fieldNat data x.start x.width
  if x.signed then
    let v := signedOf x.width n
    (BitVec.ofInt 32 v, decide (x.minimum.toInt ≤ v ∧ v ≤ x.maximum.toInt))
  else (BitVec.ofNat 32 n, decide (x.minimum.toNat ≤ n ∧ n ≤ x.maximum.toNat))

/-- One extractor run (R10, R28, R31). -/
def Extraction.run (i : Fin 96) (data : List Byte) (a : Extraction) (x : Extractor) : Extraction :=
  let (v, plausible) := x.take data
  let before := a.slots[x.slot]
  if plausible then
    { a with slots := a.slots.set x.slot { value := v, validity := .valid, source := some i }
             stored := if x.slot ∈ a.stored then a.stored else a.stored ++ [x.slot] }
  else
    { a with slots := a.slots.set x.slot { before with validity := .stale, source := some i }
             lost := if before.validity = .valid then a.lost ++ [x.slot] else a.lost
             implausible := true }

/-- The extractors of an entry run in the order of the list (R10). -/
def State.extract (s : State) (i : Fin 96) (xs : List Extractor) (data : List Byte) : Extraction :=
  xs.foldl (Extraction.run i data) { slots := s.slots, stored := [], lost := [], implausible := false }

/-! ## Forwarding (R14 to R16) -/

/-- The data of a forwarded frame, and the limiter's result where the rewrite is CLAMP_FRONT (R15, R16). -/
def State.rewritten (s : State) (rw : Rewrite) (data : List Byte) : List Byte × Option Int :=
  match rw with
  | .noRewrite => (data, none)
  | .clampFront start width =>
    let r := s.limitFront (signedOf width (fieldNat data start width))
    (setField data start width (BitVec.ofInt width r).toNat, some r)
  | .gateTraction start width =>
    (if s.board.driveInhibit.isEmpty then data else setField data start width 0, none)

/-- An accepted arrival forwarded with its rewrite; the limiter's record takes the result at admission (R14, R15, R85). -/
def State.forwardRewritten (s : State) (p : Port) (f : Frame) (rw : Rewrite) : State :=
  let (data, result) := s.rewritten rw f.data
  match s.offerSet p.other .ordinary [{ f with data := data }] with
  | some t =>
    match result with
    | some r => { t with steering := { t.steering with limiter := some r } }
    | none => t
  | none => s.latchPath fun x => { x with egressDrop := true }

/-! ## Triggers and notices (R11, R23, R31) -/

/-- What an arrival hands on to one block: its trigger, a slot notice, a loss notice, or a SYNC arrival. -/
inductive Delivery where
  | odometer | steer | joints | brake
  | level (a : Axle)
  | kneelLevel
  | door (d : Door)
  | kneel
  | traction | levelRequest
  | doorRequest (d : Door)
  | brakeEcho
  | echo (k : EchoKind)
  | loss (l : Loss)
  | sync
  deriving DecidableEq, Repr

/-- The blocks that a trigger reaches (R11). Whether an axle carries a kerb corner (R137) is read from the CORNER table of
the state that it is asked in. -/
def State.triggerDeliveries (s : State) : Trigger → List Delivery
  | .noTrigger => []
  | .odometer => [.odometer]
  | .steer => [.steer, .joints]
  | .brake => [.brake]
  | .levelAxle a => .level a :: (if s.carriesKerb a then [.kneelLevel] else [])
  | .door d => [.door d]
  | .kneel => [.kneel]

/-- The slot notices for one stored slot (R11). -/
def State.slotNotices (s : State) (i : SlotId) : List Delivery :=
  (if i = slotTractionDemand then [.traction] else [])
    ++ (if i = slotLevelRequest then [.levelRequest] else [])
    ++ ((PerDoor.all.filter fun d => slotDoorRequest d == i).map .doorRequest)
    ++ ((PerAxle.all.filter fun a => slotBrakeEcho a == i).map fun _ => .brakeEcho)
    ++ ((PerEcho.all.filter fun k =>
          match s.echoSpec k with
          | some e => e.slot == i
          | none => false).map .echo)

/-- One delivery taken by its block. -/
def State.deliver (s : State) : Delivery → State
  | .odometer => s.odometerTrigger
  | .steer => s.steerTrigger
  | .joints => s.jointTrigger
  | .brake => s.brakeTrigger
  | .level a => s.levelTrigger a
  | .kneelLevel => s.kneelLevelTrigger
  | .door d => s.doorTrigger d
  | .kneel => s.kneelTrigger
  | .traction => s.tractionNotice
  | .levelRequest => s.levelRequestNotice
  | .doorRequest d => s.doorRequest d
  | .brakeEcho => s.recomputeHalt
  | .echo k => s.echoArrival k
  | .loss l => s.takeLoss false l
  | .sync => s.syncArrival

/-- Whether a mark taken now would apply a FIT. -/
def State.wouldApplyFit (s : State) : Bool := decide (s.markVerdict = .apply) && s.tables.waiting.fit

/-- What an arrival hands on, in a free order (R11; log entry 4). The mark of a SYNC arrival that applies a FIT is taken
last, so that the arrival's other blocks see its own values (log entry 5). -/
def State.handOn (s : State) (isSync : Bool) (ds : List Delivery) : State :=
  let take := fun d s => State.deliver s d
  if isSync then
    if s.wouldApplyFit then (s.takeAll take ds).syncArrival else s.takeAll take (ds ++ [.sync])
  else s.takeAll take ds

/-! ## A matched arrival -/

/-- The matched entry of an arrival, taken apart. -/
structure Matched where
  place : Fin 96
  entry : FitEntry
  cls : ArrivalClass
  rewrite : Rewrite
  trigger : Trigger
  extractors : List Extractor
  deriving DecidableEq, Repr

/-- An arrival accepted by R8 and R9, with the counter record to be kept (R10 to R16). Who takes its trigger is settled
before anything is handed on: where the arrival is a SYNC arrival whose mark is taken first and applies a CORNER table, whether
axle a carries a kerb corner (R137) is still decided by the table before the mark (DESIGN CHOICE, log entry 31). -/
def State.accept (s : State) (p : Port) (f : Frame) (m : Matched) (counter : Option (BitVec 4)) : State :=
  let x := s.extract m.place m.extractors f.data
  let before := s.path.entries[m.place]
  let record : EntryRecord :=
    { counter := if x.implausible then none else counter
      watch := if m.entry.watch = 0 then before.watch else some m.entry.watch }
  let s1 := { s with slots := x.slots }.setEntry m.place record
  let s2 := if x.implausible then s1.latchPath fun l => { l with plausibility := true } else s1
  let s3 := if m.entry.forward && !s.neverForwarded f.id then s2.forwardRewritten p f m.rewrite else s2
  let triggers := if x.implausible then [] else s3.triggerDeliveries m.trigger
  s3.handOn (decide (m.cls = .sync))
    (triggers ++ x.stored.flatMap s3.slotNotices ++ (x.lost.filterMap lossOf).map .loss)

/-- A matched arrival: its length, its counter, and then the rest (R8, R9). -/
def State.matched (s : State) (p : Port) (f : Frame) (m : Matched) : State :=
  if 8 * f.data.length < bitsNeeded m.entry m.rewrite m.extractors then
    s.latchPath fun x => { x with shortFrame := true }
  else
    match m.entry.counter with
    | none => s.accept p f m none
    | some start =>
      let c := BitVec.ofNat 4 (fieldNat f.data start 4)
      match counterVerdict s.path.entries[m.place].counter c with
      | .repeated => s.latchPath fun x => { x with counterRepeat := true }
      | .accepted jump =>
        (s.latchPath fun x => { x with counterJump := x.counterJump || jump }).accept p f m (some c)

/-- The matched entry at a place of the active FIT. -/
def State.matchedAt (s : State) (i : Fin 96) : Option Matched :=
  match s.fit[i.val]? with
  | none => none
  | some e =>
    match e.role with
    | .arrival _ cls rewrite trigger extractors => some { place := i, entry := e, cls, rewrite, trigger, extractors }
    | .emit _ _ => none

/-- An arrival that is no management request (R5 to R7): discarded in CONFIGURING, matched in RUN. -/
def State.classify (s : State) (p : Port) (f : Frame) : State :=
  if s.inRun then
    match (s.matchEntry p f.id).bind s.matchedAt with
    | some m => s.matched p f m
    | none => s.unmatched p f
  else s

/-! ## Watches (R13) -/

/-- The fault of a lost entry of a class (R13); a SYNC entry's is R23's. -/
def PathFaults.latchLost (f : PathFaults) : ArrivalClass → PathFaults
  | .sync => f
  | .sample => { f with sampleLost := true }
  | .command => { f with commandLost := true }
  | .status => { f with statusLost := true }

/-- The slots that an entry fed last and that stand VALID (R13). -/
def State.fedSlots (s : State) (i : Fin 96) : List SlotId :=
  s.validSlots.filter fun j => decide (s.slots[j].source = some i)

/-- A slot made STALE where an entry fed it last and it stands VALID (R13). -/
def SignalSlot.silence (x : SignalSlot) (i : Fin 96) : SignalSlot :=
  if x.source = some i ∧ x.validity = .valid then { x with validity := .stale } else x

/-- The expiry of an entry's watch timer (R13). Nothing where the timer is idle. -/
def State.watchExpiry (s : State) (i : Fin 96) : State :=
  if s.path.entries[i].watch = none then s
  else
    let s1 := ({ s with slots := vmap (fun x : SignalSlot => x.silence i) s.slots }).setEntry i .reset
    let s2 := match s.entryClass i.val with
      | none => s1
      | some cls =>
        let t := s1.latchPath fun f => f.latchLost cls
        if cls = ArrivalClass.sync then t.syncLost else t
    s2.takeLosses false (s.fedSlots i)

end Sys2Proof.Machine
end

