-- ==== Sys2Proof/Machine/Links.lean ====
section
/-! DEFINITION. The reports of the link controllers: bus-off, recovery, transmit complete (1.1, 1.7). -/

namespace Sys2Proof.Machine

/-- The state with one port replaced. -/
def State.setPort (s : State) (p : Port) (x : PortState) : State := { s with ports := s.ports.set p x }

/-- PORT_BUS_OFF latched for a port (R2). -/
def PathFaults.latchBusOff (f : PathFaults) : Port → PathFaults
  | .u => { f with portBusOffU := true }
  | .d => { f with portBusOffD := true }

/-- A bus-off report (R2); nothing at a port that is BUS_OFF already (R3). -/
def State.busOff (s : State) (p : Port) : State :=
  match (s.ports.get p).link with
  | .busOff => s
  | .active =>
    let t := s.setPort p { link := .busOff, priority := [], ordinary := [], offer := .empty }
    { t with path := { t.path with faults := t.path.faults.latchBusOff p } }

/-- A recovery report (R3); nothing at a port that is ACTIVE. -/
def State.recovery (s : State) (p : Port) : State :=
  match (s.ports.get p).link with
  | .active => s
  | .busOff => s.setPort p ({ s.ports.get p with link := .active }).arbitrate

/-- The port with the head of a queue gone. -/
def PortState.dropHead (x : PortState) (k : QueueKind) : PortState := x.setQueue k ((x.queue k).drop 1)

/-- A transmit-complete report at a port's arbiter (R21, R26). -/
def PortState.complete (x : PortState) : PortState :=
  match x.offer with
  | .empty => x
  | .awaiting _ => ({ x with offer := .empty }).arbitrate
  | .onOffer k content renewed =>
    if renewed then { x with offer := .onOffer k (((x.queue k).head?).getD content) false }
    else ({ x.dropHead k with offer := .empty }).arbitrate

/-- A transmit-complete report (R21). -/
def State.transmitComplete (s : State) (p : Port) : State := s.setPort p (s.ports.get p).complete

end Sys2Proof.Machine
end

