-- ==== Sys2Proof/Machine/Events.lean ====
section
/-! DEFINITION. The meanings of the commands that are no management requests: resets, link reports, frame arrivals and
timer expiries. Every one has a next state in every state. -/

namespace Sys2Proof.Machine

/-- The outcomes of a command. -/
abbrev Result := Host.Outcome State Fault Refusal

/-- POWER_ON (R197). -/
def execPowerOn (straps : BitVec 3) (s : State) : Result := .next (s.hardReset straps)

/-- RESET_LINE (R197; log entry 18). -/
def execResetLine (straps : BitVec 3) (s : State) : Result := .next (s.hardReset straps)

/-- BUS_OFF (R2, R3). -/
def execBusOff (p : Port) (s : State) : Result := .next (s.busOff p)

/-- RECOVERY (R3). -/
def execRecovery (p : Port) (s : State) : Result := .next (s.recovery p)

/-- TRANSMIT_COMPLETE (R21). -/
def execTransmitComplete (p : Port) (s : State) : Result := .next (s.transmitComplete p)

/-- A frame that a link controller has received (R1, R5, R6): nothing on a BUS_OFF port (log entry 7), to the agent where it
carries the management request identifier (log entry 8), and to the classifier otherwise. -/
def State.frameArrival (s : State) (p : Port) (f : Frame) : State :=
  match (s.ports.get p).link with
  | .busOff => s
  | .active => if s.isManagement p f.id then s.takeRequest (requestOfData f.data) else s.classify p f

/-- FRAME_ARRIVAL (R6). -/
def execFrameArrival (p : Port) (f : Frame) (s : State) : Result := .next (s.frameArrival p f)

/-- WATCH_EXPIRY (R13). -/
def execWatchExpiry (i : Fin 96) (s : State) : Result := .next (s.watchExpiry i)

/-- CYCLE_TIMER_EXPIRY (R22). -/
def execCycleTimerExpiry (s : State) : Result := .next s.cycleExpiry

/-- ECHO_TIMER_EXPIRY (R169). -/
def execEchoTimerExpiry (k : EchoKind) (s : State) : Result := .next (s.echoExpiry k)

/-- ACTIVE_SINCE_EXPIRY (R130). -/
def execActiveSinceExpiry (c : Corner) (s : State) : Result := .next (s.activeSinceExpiry c)

/-- KNEEL_ARM_TIMER_EXPIRY (R140). -/
def execKneelArmTimerExpiry (s : State) : Result := .next s.kneelArmExpiry

/-- KNEEL_DEADLINE_EXPIRY (R142, R146). -/
def execKneelDeadlineExpiry (s : State) : Result := .next s.kneelDeadlineExpiry

/-- DOOR_ARM_TIMER_EXPIRY (R158). -/
def execDoorArmTimerExpiry (d : Door) (s : State) : Result := .next (s.doorArmExpiry d)

/-- LOCK_PROOF_EXPIRY (R161). -/
def execLockProofExpiry (d : Door) (s : State) : Result := .next (s.lockProofExpiry d)

/-- RELEASE_HOLD_EXPIRY (R159). -/
def execReleaseHoldExpiry (d : Door) (s : State) : Result := .next (s.releaseHoldExpiry d)

/-- RESET_ARM_TIMER_EXPIRY (R196). -/
def execResetArmTimerExpiry (s : State) : Result := .next s.resetArmExpiry

end Sys2Proof.Machine
end

