-- ==== Sys2Proof/Machine/Requests.lean ====
section
/-! DEFINITION. The meanings of the management requests (Chapter 12). Every one has a next state in every state. -/

namespace Sys2Proof.Machine

/-- IDENT (R188). -/
def execIdent (rest : List Byte) (s : State) : Result := .next (s.identRequest rest)

/-- STATUS (R189). -/
def execStatus (rest : List Byte) (s : State) : Result := .next (s.statusRequest rest)

/-- READ (R191). -/
def execRead (rest : List Byte) (s : State) : Result := .next (s.readRequest rest)

/-- WRITE (R192). -/
def execWrite (rest : List Byte) (s : State) : Result := .next (s.writeRequest rest)

/-- SWAP (R193). -/
def execSwap (rest : List Byte) (s : State) : Result := .next (s.swapRequest rest)

/-- COMMIT (R176, R194). -/
def execCommit (rest : List Byte) (s : State) : Result := .next (s.commitRequest rest)

/-- HOLD (R179). -/
def execHold (rest : List Byte) (s : State) : Result := .next (s.holdRequest rest)

/-- RELEASE (R179). -/
def execRelease (rest : List Byte) (s : State) : Result := .next (s.releaseRequest rest)

/-- DISCARD (R182). -/
def execDiscard (rest : List Byte) (s : State) : Result := .next (s.discardRequest rest)

/-- EVENTS (R195). -/
def execEvents (rest : List Byte) (s : State) : Result := .next (s.eventsRequest rest)

/-- RESET_ARM (R196). -/
def execResetArm (rest : List Byte) (s : State) : Result := .next (s.resetArmRequest rest)

/-- RESET_GO (R196, R197). -/
def execResetGo (rest : List Byte) (s : State) : Result := .next (s.resetGoRequest rest)

/-- BAD_REQUEST (R187). -/
def execBadRequest (data : List Byte) (s : State) : Result := .next (s.badRequest data)

end Sys2Proof.Machine
end

