-- ==== Sys2Proof/Machine/Dispatch.lean ====
section
/-! DEFINITION. One arm per command, each a direct call of its meaning. -/

namespace Sys2Proof.Machine

def exec (i : Instr) (s : State) : Host.Outcome State Fault Refusal :=
  match i with
  | .powerOn straps => Sys2Proof.Machine.execPowerOn straps s
  | .resetLine straps => Sys2Proof.Machine.execResetLine straps s
  | .busOff p => Sys2Proof.Machine.execBusOff p s
  | .recovery p => Sys2Proof.Machine.execRecovery p s
  | .transmitComplete p => Sys2Proof.Machine.execTransmitComplete p s
  | .frameArrival p f => Sys2Proof.Machine.execFrameArrival p f s
  | .watchExpiry n => Sys2Proof.Machine.execWatchExpiry n s
  | .cycleTimerExpiry => Sys2Proof.Machine.execCycleTimerExpiry s
  | .echoTimerExpiry k => Sys2Proof.Machine.execEchoTimerExpiry k s
  | .activeSinceExpiry c => Sys2Proof.Machine.execActiveSinceExpiry c s
  | .kneelArmTimerExpiry => Sys2Proof.Machine.execKneelArmTimerExpiry s
  | .kneelDeadlineExpiry => Sys2Proof.Machine.execKneelDeadlineExpiry s
  | .doorArmTimerExpiry d => Sys2Proof.Machine.execDoorArmTimerExpiry d s
  | .lockProofExpiry d => Sys2Proof.Machine.execLockProofExpiry d s
  | .releaseHoldExpiry d => Sys2Proof.Machine.execReleaseHoldExpiry d s
  | .resetArmTimerExpiry => Sys2Proof.Machine.execResetArmTimerExpiry s
  | .ident rest => Sys2Proof.Machine.execIdent rest s
  | .status rest => Sys2Proof.Machine.execStatus rest s
  | .read rest => Sys2Proof.Machine.execRead rest s
  | .write rest => Sys2Proof.Machine.execWrite rest s
  | .swap rest => Sys2Proof.Machine.execSwap rest s
  | .commit rest => Sys2Proof.Machine.execCommit rest s
  | .hold rest => Sys2Proof.Machine.execHold rest s
  | .release rest => Sys2Proof.Machine.execRelease rest s
  | .discard rest => Sys2Proof.Machine.execDiscard rest s
  | .events rest => Sys2Proof.Machine.execEvents rest s
  | .resetArm rest => Sys2Proof.Machine.execResetArm rest s
  | .resetGo rest => Sys2Proof.Machine.execResetGo rest s
  | .badRequest data => Sys2Proof.Machine.execBadRequest data s

end Sys2Proof.Machine
end

