-- ==== Sys2Proof/Machine/Timebase.lean ====
section
/-! DEFINITION. The millisecond timebase (00_scope.md, 6.3 and 6.5): all the timers of the part, one millisecond passing,
and the expiries that are due. What `step` does on an empty queue (log entry 2). -/

namespace Sys2Proof.Machine

/-- One millisecond off a running timer. -/
def Timer.tick : Timer → Timer
  | none => none
  | some n => some (n - 1)

/-- The timers of a door record one millisecond on. -/
def DoorRecord.tick (r : DoorRecord) : DoorRecord :=
  { r with armTimer := Timer.tick r.armTimer, lockProof := Timer.tick r.lockProof
           releaseHold := Timer.tick r.releaseHold }

/-- Every timer of the part one millisecond on. -/
def State.tick (s : State) : State :=
  { s with
    path := { s.path with
      entries := vmap (fun r : EntryRecord => { r with watch := Timer.tick r.watch }) s.path.entries
      cycle := { s.path.cycle with timer := Timer.tick s.path.cycle.timer } }
    levels := { s.levels with
      corners := PerCorner.ofFn fun c =>
        { s.levels.corners.get c with activeSince := Timer.tick (s.levels.corners.get c).activeSince } }
    kneel := { s.kneel with armTimer := Timer.tick s.kneel.armTimer, deadline := Timer.tick s.kneel.deadline }
    doors := { s.doors with records := PerDoor.ofFn fun d => (s.doors.records.get d).tick }
    echoes := { s.echoes with
      records := PerEcho.ofFn fun k =>
        { s.echoes.records.get k with timer := Timer.tick (s.echoes.records.get k).timer } }
    agent := { s.agent with resetArm := Timer.tick s.agent.resetArm } }

/-- The three timers of a door, each with the command of its expiry. -/
def State.doorTimers (s : State) (d : Door) : List (Timer × Instr) :=
  [((s.door d).armTimer, .doorArmTimerExpiry d), ((s.door d).lockProof, .lockProofExpiry d),
   ((s.door d).releaseHold, .releaseHoldExpiry d)]

/-- Every timer of the part, with the command of its expiry. -/
def State.timers (s : State) : List (Timer × Instr) :=
  [(s.path.cycle.timer, .cycleTimerExpiry), (s.kneel.armTimer, .kneelArmTimerExpiry),
   (s.kneel.deadline, .kneelDeadlineExpiry), (s.agent.resetArm, .resetArmTimerExpiry)]
    ++ PerCorner.all.map (fun c => ((s.levels.corners.get c).activeSince, .activeSinceExpiry c))
    ++ PerDoor.all.flatMap s.doorTimers
    ++ PerEcho.all.map (fun k => ((s.echoes.records.get k).timer, .echoTimerExpiry k))
    ++ (List.finRange 96).map fun i => (s.path.entries[i].watch, .watchExpiry i)

/-- The expiries that are due: the timers that have run to 0. -/
def State.dueExpiries (s : State) : List Instr :=
  (s.timers.filter fun t => decide (t.1 = some 0)).map Prod.snd

/-- The part with no command waiting: an expiry that is due joins the queue, which of several being a free choice, and
without one a millisecond passes (log entry 2). -/
def State.idle (s : State) : State :=
  match s.dueExpiries with
  | [] => s.tick
  | [e] => { s with pending := [e] }
  | e :: f :: es =>
    let (k, t) := s.drawOrder (es.length + 2)
    { t with pending := [((e :: f :: es)[k]?).getD e] }

end Sys2Proof.Machine
end

