-- ==== Sys2Proof/Safety.lean ====
section
/-! DEFINITION. What holds of the part in every state that a run reaches: the invariants that claims are stated with, block
by block. -/

namespace Sys2Proof.Machine

/-! ## Links and queues -/

/-- The offer record of a port against its queues: it names the head of a queue, which holds newer content only where it
is renewed (R19, R20); an empty record of an ACTIVE port stands over empty queues, for the arbiter has nothing to offer
(R20). -/
def PortState.offerSound (x : PortState) : Prop :=
  match x.offer with
  | .empty => x.link = .active → x.priority = [] ∧ x.ordinary = []
  | .awaiting _ => True
  | .onOffer k content renewed =>
    match (x.queue k).head? with
    | none => False
    | some f => f.id = content.id ∧ (renewed = false → f = content)

/-- A port as R2, R17, R19 and R20 keep it: capacities, no identifier twice in a queue, nothing waiting while BUS_OFF, and
a sound offer record. -/
structure PortState.Sound (x : PortState) : Prop where
  priorityFits : x.priority.length ≤ 8
  ordinaryFits : x.ordinary.length ≤ 32
  priorityDistinct : (x.priority.map Frame.id).Nodup
  ordinaryDistinct : (x.ordinary.map Frame.id).Nodup
  silent : x.link = .busOff → x.priority = [] ∧ x.ordinary = [] ∧ x.offer = .empty
  offered : x.offerSound

/-- Both ports are sound. -/
def State.portsSound (s : State) : Prop := ∀ p, (s.ports.get p).Sound

/-! ## Interlocks -/

/-- A door record's flag and timers stand only in their states (R149, R157, R158, R159, R161). -/
structure DoorRecord.Sound (r : DoorRecord) : Prop where
  armedLocked : r.armed = true → r.state = .locked
  armTimer : r.armTimer.isSome = r.armed
  lockProof : r.lockProof.isSome = true → r.state = .closing
  releaseHold : r.releaseHold.isSome = true → r.state = .released
  absent : r.state = .absent → r.latch = .empty

/-- Whether a door's condition asks for its member (R155). -/
def DoorRecord.holds (r : DoorRecord) : Bool :=
  decide (r.state ≠ .absent) && !(decide (r.state = .locked) && !r.armed)

/-- An ABSENT door has settled no position (R150, R165). -/
def State.absentUnsettled (s : State) : Prop := ∀ d, (s.door d).state = .absent → (s.door d).settled = none

/-- The reason sets and the halt latch against the doors and the kneel state (R42, R43, R45, R155). -/
structure State.InterlocksSound (s : State) : Prop where
  sameMembers : s.board.haltSet = s.board.driveInhibit
  kneelMember : s.board.haltSet.kneel = decide (s.kneel.state ≠ .ride)
  doorMember : ∀ d, s.board.haltSet.doors.get d = (s.door d).holds
  latched : s.board.haltSet.isEmpty = false → s.board.haltLatch = true
  confirmed : s.board.haltConfirmed = true → s.board.haltLatch = true
  doors : ∀ d, (s.door d).Sound
  fitted : ∀ d, (s.door d).state = .absent ↔ s.fitted d = false

/-! ## Speed-limit map -/

/-- Some corner's slow flag is TRUE. -/
def State.anySlow (s : State) : Bool := PerCorner.all.any fun c => (s.levels.corners.get c).slow

/-- The speed-limit map against its owners (R49, R50, R52): a kind is held exactly while its owner's condition stands, and
every limit held is the active CONSTANTS table's. BRAKE is left to its owner's events (R109). -/
structure State.LimitsSound (s : State) : Prop where
  steer : ∀ r, (s.board.limits.get (rearLimit r)).isSome = decide ((s.steering.rear.get r).mode = .locked)
  joint : ∀ j, (s.board.limits.get (jointLimit j)).isSome = s.inBreach j
  levelHigh : s.board.limits.levelHigh.isSome = decide (s.levels.ride = .high)
  levelSlow : s.board.limits.levelSlow.isSome = s.anySlow
  kneelFault : s.board.limits.kneelFault.isSome = s.kneel.faultPosted
  sync : s.board.limits.sync.isSome = s.path.cycle.syncPosted
  values : ∀ k v, s.board.limits.get k = some v → v = s.paramNat k.param

/-! ## Steering -/

/-- Every angle that the part has commanded or forwarded lies within ±4,551 bau (R68, R83). -/
structure State.AnglesSound (s : State) : Prop where
  rear : ∀ r, ((s.steering.rear.get r).lastAngle.natAbs : Int) ≤ steerLimit
  front : ∀ x, s.steering.limiter = some x → (x.natAbs : Int) ≤ steerLimit

/-! ## Levelling and kneeling -/

/-- A corner record (R115, R128, R130): the ring's bound; no average and no band without a sample; and a correcting corner
either runs its timer or has been found slow, any other corner neither. -/
structure CornerRecord.Sound (r : CornerRecord) : Prop where
  ring : r.ring.length ≤ 16
  judged : r.ring = [] → r.average = none ∧ r.inBand = false
  timed : r.mode.correcting = (r.activeSince.isSome != r.slow)
  exclusive : ¬(r.activeSince.isSome = true ∧ r.slow = true)

/-- The level controller's records are sound. -/
def State.levelsSound (s : State) : Prop := ∀ c, (s.levels.corners.get c).Sound

/-- The kneel sequencer's timers and the load snapshot against its state (R100, R101, R135, R136). -/
structure State.KneelSound (s : State) : Prop where
  armTimer : s.kneel.armTimer.isSome = decide (s.kneel.state = .arming)
  deadline : s.inRun = true → s.kneel.deadline.isSome = decide (s.kneel.state = .lowering ∨ s.kneel.state = .raising)
  configuring : s.inRun = false → s.kneel.state = .raising ∧ s.kneel.deadline = none
  snapshotRide : s.kneel.state = .ride → s.brakes.snapshot = none
  snapshotLow : (s.kneel.state = .lowering ∨ s.kneel.state = .knelt ∨ s.kneel.state = .paused) →
    s.brakes.snapshot.isSome = true

/-! ## Cycle marks and echoes -/

/-- The cycle mark source (R22, R23): the timer runs exactly in FREE_RUN, SYNC is posted only there, and nothing follows
SYNC before RUN. -/
structure State.CycleSound (s : State) : Prop where
  timer : s.path.cycle.timer.isSome = decide (s.path.cycle.sync = .freeRun)
  posted : s.path.cycle.syncPosted = true → s.path.cycle.sync = .freeRun
  run : s.inRun = false → s.path.cycle.sync = .freeRun

/-- An echo record (R166, R167, R170): its counts, its value pair, and AGREE only below three mismatches. -/
structure EchoRecord.Sound (r : EchoRecord) : Prop where
  mismatch : r.mismatch ≤ 3
  agreement : r.agreement ≤ 10
  agrees : r.state = .agree → r.mismatch < 3
  pair : r.newest = none → r.previous = none ∧ r.timer = none

/-- Every echo record is sound. -/
def State.echoesSound (s : State) : Prop := ∀ k, (s.echoes.records.get k).Sound

/-! ## Tables -/

/-- A combination of tables that passes every cross-check (R177). -/
structure ActiveTables.Checked (c : ActiveTables) : Prop where
  geometry : geometryHolds c = true
  duplicate : noDuplicate (c.fit.getD []) = true
  complete : complete c = true

/-- The active copies with the staged copies of the pending set in their places: what the next application would make
active (R177). -/
def TableStore.prospect (ts : TableStore) : ActiveTables := copyTables ts.staged ts.active ts.waiting

/-- The table store (R172, R175, R177, R183): the sums are those of the staged copies, the active copies and those that the
pending set would make active pass every cross-check, and the part is in RUN exactly while all seven tables are active. -/
structure TableStore.Sound (ts : TableStore) : Prop where
  sums : ∀ t, ts.sums.get t = entrySum ts.staged t
  active : ts.active.Checked
  prospect : ts.prospect.Checked
  run : ts.partState = .run ↔ ts.active.full = true

/-! ## Track memory -/

/-- The track memory under a pitch (R60, R63): at most 256 marks, one pitch from each to the next, and the next mark due one
pitch beyond the newest. -/
structure Track.Sound (t : Track) (pitch : Nat) : Prop where
  fits : t.marks.length ≤ 256
  spaced : ∀ i a b, t.marks[i]? = some a → t.marks[i + 1]? = some b → b.position = a.position + BitVec.ofNat 32 pitch
  due : ∀ m, t.marks.getLast? = some m → t.nextPos = m.position + BitVec.ofNat 32 pitch ∧ t.lastOdo ≠ none

/-- The track memory is sound under the active pitch, and holds no mark before a CONSTANTS table is active (R65). -/
def State.trackSound (s : State) : Prop :=
  s.track.Sound s.pitch ∧ (s.tables.active.constants = none → s.track.marks = [])

/-! ## Legal entries (11.2, R174) -/

/-- A schedule's values lie in the range of its index. -/
def Schedule.Legal (i : Fin 8) (y : Schedule) : Prop := ∀ j : Fin 9, (scheduleRange i).1 ≤ y[j] ∧ y[j] ≤ (scheduleRange i).2

/-- An AXLE entry within its ranges. -/
def AxleParams.Legal (i : Fin 4) (a : AxleParams) : Prop :=
  a.base ≤ 4000 ∧ a.k ≤ 1024 ∧ a.fallback ≤ 4000 ∧ 1 ≤ a.bg ∧ a.bg ≤ 255 ∧ a.pmax ≤ 1000
    ∧ (pathRange i).1 ≤ a.path ∧ a.path ≤ (pathRange i).2 ∧ (rateRange i).1 ≤ a.rate ∧ a.rate ≤ (rateRange i).2

/-- A CORNER entry within its ranges. -/
def CornerParams.Legal (i : Fin 8) (c : CornerParams) : Prop :=
  -250 ≤ c.min ∧ c.min ≤ c.max ∧ c.max ≤ 250 ∧ c.min ≤ c.normal ∧ c.normal ≤ c.max ∧ c.min ≤ c.high ∧ c.high ≤ c.max
    ∧ c.min ≤ c.kneel ∧ c.kneel ≤ c.max ∧ 1 ≤ c.tb ∧ c.tb ≤ 20 ∧ c.tb ≤ c.db ∧ c.db ≤ 80 ∧ c.damping ≤ 15 ∧ 1 ≤ c.gain
    ∧ c.gain ≤ 32 ∧ 10 ≤ c.maxPulse ∧ c.maxPulse ≤ 250 ∧ (c.window = 1 ∨ c.window = 4 ∨ c.window = 16)
    ∧ (isRight i = true → c.pair = false)

/-- A DOOR entry within its ranges. -/
def DoorParams.Legal (d : DoorParams) : Prop :=
  1 ≤ d.debounce ∧ d.debounce ≤ 15 ∧ d.maxReversals ≤ 7 ∧ 1000 ≤ d.lockProof ∧ d.lockProof ≤ 15000
    ∧ 1000 ≤ d.releaseHold ∧ d.releaseHold ≤ 60000

/-- A rewrite on an entry of a class (R174). -/
def Rewrite.Legal (cls : ArrivalClass) : Rewrite → Prop
  | .noRewrite => True
  | .clampFront start width => cls = .command ∧ 14 ≤ width ∧ width ≤ 32 ∧ start + width ≤ 512
  | .gateTraction start width => cls = .command ∧ 1 ≤ width ∧ width ≤ 32 ∧ start + width ≤ 512

/-- The role of an entry (1.2, R174). -/
def FitRole.Legal : FitRole → Prop
  | .arrival port cls rewrite _ extractors =>
    (cls = .sync → port = .u) ∧ rewrite.Legal cls ∧ extractors.length ≤ 4
      ∧ ∀ x ∈ extractors, 1 ≤ x.width ∧ x.width ≤ 32 ∧ x.start + x.width ≤ 512
  | .emit kind echo =>
    ∀ e, echo = some e → kind.echoKind ≠ none ∧ e.tolerance ≤ 1000 ∧ 10 ≤ e.deadline ∧ e.deadline ≤ 2550

/-- Whether an entry makes cycle marks. -/
def FitRole.isSync : FitRole → Bool
  | .arrival _ cls _ _ _ => decide (cls = .sync)
  | .emit _ _ => false

/-- Whether an entry describes frames that the part sends. -/
def FitRole.isEmit : FitRole → Bool
  | .arrival _ _ _ _ _ => false
  | .emit _ _ => true

/-- A FIT entry that R173 and R174 leave as it is (1.2). -/
def FitEntry.Legal (node : BitVec 3) (e : FitEntry) : Prop :=
  e.watch ≤ 2550 ∧ e.watch % 5 = 0 ∧ (e.role.isSync = true → e.watch ≠ 0)
    ∧ (∀ start, e.counter = some start → start ≤ 508) ∧ e.role.Legal
    ∧ (e.role.isEmit = true → e.id ≠ responseId node)

/-! ## What claims about single commands are stated with -/

/-- What the arbiter of a port offers once its record is empty (R20). -/
def PortState.choice (x : PortState) : Offer :=
  match x.link, x.priority, x.ordinary with
  | .busOff, _, _ => .empty
  | .active, f :: _, _ => .onOffer .priority f false
  | .active, [], f :: _ => .onOffer .ordinary f false
  | .active, [], [] => .empty

/-- Every block at the values that its chapter gives after every kind of reset (R9, R12, R27, R47, R53, R54, R60, R68, R83,
R87, R98, R115, R116, R135, R150, R166, R190, R196, and every fault set empty). -/
structure State.BlocksReset (t : State) : Prop where
  entries : ∀ i : Fin 96, t.path.entries[i] = { counter := none, watch := none }
  slots : ∀ i : SlotId, t.slots[i] = { value := 0, validity := .never, source := none }
  latch : t.board.haltLatch = true
  confirmed : t.board.haltConfirmed = false
  limits : ∀ k, t.board.limits.get k = none
  stretch : ∀ a, t.board.stretch.get a = 0
  track : t.track = { marks := [], lastOdo := none, nextPos := 0 }
  rear : ∀ r, t.steering.rear.get r = { mode := .centre, lastAngle := 0 }
  limiter : t.steering.limiter = none
  joints : ∀ j, t.joints.records.get j = { envelope := .inside, damping := .firm }
  loads : ∀ a, t.brakes.sources.get a = .unknown
  snapshot : t.brakes.snapshot = none
  corners : ∀ c, t.levels.corners.get c = { ring := [], average := none, target := .rideLevel, mode := .idle,
                                            inBand := false, slow := false, activeSince := none }
  ride : t.levels.ride = .normal
  kneel : t.kneel.state = .raising ∧ t.kneel.armTimer = none ∧ t.kneel.faultPosted = false
  doors : ∀ d, t.door d = { (t.door d) with armed := false, armTimer := none, candidate := none, debounce := 0,
                                            settled := none, lastEdge := none, reversals := 0, latch := .empty,
                                            lockProof := none, releaseHold := none, lastCommand := none }
  echoes : ∀ k, t.echoes.records.get k = { newest := none, previous := none, mismatch := 0, agreement := 0,
                                           state := .agree, timer := none }
  cursor : t.agent.cursor = { table := .fit, index := 0, mode := .table }
  resetArm : t.agent.resetArm = none
  faults : ∀ b ∈ t.summaryFlags, b = false

/-- The data length of an arrival does not reach the highest bit that its entry uses (R8). -/
def Matched.tooShort (m : Matched) (len : Nat) : Prop :=
  (∃ start, m.entry.counter = some start ∧ 8 * len < start + 4)
    ∨ (m.entry.forward = true ∧ 8 * len < m.rewrite.reach)
    ∨ ∃ x ∈ m.extractors, 8 * len < x.start + x.width

/-- An arrival in RUN on an ACTIVE port that matches an entry (R5, R6). -/
structure State.Matches (s : State) (p : Port) (f : Frame) (m : Matched) : Prop where
  run : s.inRun = true
  active : (s.ports.get p).link = .active
  notManagement : s.isManagement p f.id = false
  place : s.matchEntry p f.id = some m.place
  entry : s.matchedAt m.place = some m

/-- A matched arrival that R8 and R9 accept. -/
structure State.Accepts (s : State) (p : Port) (f : Frame) (m : Matched) : Prop where
  matched : s.Matches p f m
  longEnough : ¬ m.tooShort f.data.length
  counter : ∀ start, m.entry.counter = some start →
    s.path.entries[m.place].counter ≠ some (BitVec.ofNat 4 (fieldNat f.data start 4))

/-- An output set offered to a queue, from the state `s` before the offer to the state `t` after it: admitted whole, or
refused whole with EGRESS_DROP latched in the set of the block that offered it (R18). The two flags are that block's
EGRESS_DROP before and after. -/
def State.Offered (s : State) (p : Port) (k : QueueKind) (fs : List Frame) (t : State) (before after : Bool) : Prop :=
  match (s.ports.get p).admission k fs with
  | some y => t.ports = s.ports.set p y ∧ after = before
  | none => t.ports = s.ports ∧ after = true

/-- The state `t` comes from `s` by taking each of some events once, one after another, in one of their orders (R11, R56;
log entry 4). The numbers are the counts of order choices at each, which are the model's own. -/
def State.Takes {α : Type} (s : State) (take : State → α → State) (es : List α) (t : State) : Prop :=
  ∃ order : List (α × Nat), (order.map Prod.fst).Perm es
    ∧ t = order.foldl (fun u x => take { u with orderCount := x.2 } x.1) s

/-- A pressure computation with a demand, from the state `s` before it to the state `t` after it; `lost` says that
DEMAND_STALE is latched with it (R99, R103, R104, R105, R107, R109). -/
structure State.Computed (s : State) (demand : Nat) (lost : Bool) (t : State) : Prop where
  sources : ∀ a, t.brakes.sources.get a = (s.axleLoad a).2
  fallback : t.brakes.faults.loadFallback = true ↔
    s.brakes.faults.loadFallback = true ∨ ∃ a, (s.axleLoad a).2 = .fallback
  posted : (∃ a, s.disagrees (.brake a) = true) → t.board.limits.brake = some (s.paramNat .limitBrake)
  withdrawn : (∀ a, s.disagrees (.brake a) = false) → t.board.limits.brake = none
  offered :
    let data := fun a => half (s.axlePressure a (s.axleLoad a).1 demand)
    s.Offered .d .priority
      (s.emitFrames [(.brake .a1, data .a1), (.brake .a2, data .a2), (.brake .a3, data .a3), (.brake .a4, data .a4)]) t
      s.brakes.faults.egressDrop t.brakes.faults.egressDrop
  frame : t = { s with
    ports := t.ports, echoes := t.echoes
    board := { s.board with limits := { s.board.limits with brake := t.board.limits.brake } }
    brakes := { s.brakes with
      sources := t.brakes.sources
      faults := { t.brakes.faults with demandStale := s.brakes.faults.demandStale || lost } } }

/-- Whether a command of a door would be admitted (R18, R156). -/
def State.takesDoor (s : State) (d : Door) (c : DoorCommand) : Bool :=
  (s.ports.d.admission .priority (s.emitFrames [(.door d, byte (doorCommandCode c))])).isSome

/-- A door's command offered as its one-frame set to the Port D priority queue, from the state `s` before the event to the
state `t` after it; at admission it is the door's last admitted command (R156). -/
def State.Sends (s : State) (d : Door) (c : DoorCommand) (t : State) : Prop :=
  s.Offered .d .priority (s.emitFrames [(.door d, byte (doorCommandCode c))]) t s.doors.faults.egressDrop
      t.doors.faults.egressDrop
    ∧ (t.door d).lastCommand = if s.takesDoor d c then some c else (s.door d).lastCommand

/-- What a cycle mark makes of the table store, `still` saying that the vehicle is stationary at the mark: nothing under
the hold flag or with nothing pending; the refusal of a set with a motion table in RUN while the vehicle moves; and the
application otherwise (R179, R180, R183). -/
structure TableStore.Marked (ts : TableStore) (still : Bool) (after : TableStore) : Prop where
  left : (ts.hold = true ∨ ∀ n, ts.waiting.get n = false) → after = ts
  refused : ts.hold = false → (∃ n, ts.waiting.get n = true ∧ n.isMotion = true) → ts.partState = .run → still = false →
    after = { ts with
      waiting := PerTable.const false
      outcome := { tables := ts.waiting, result := .refusedNotStill, epochs := ts.epochs } }
  applied : ts.hold = false → (∃ n, ts.waiting.get n = true) →
    ¬((∃ n, ts.waiting.get n = true ∧ n.isMotion = true) ∧ ts.partState = .run ∧ still = false) →
    after.active = ts.prospect ∧ after.staged = ts.staged ∧ after.sums = ts.sums ∧ after.hold = false
      ∧ (∀ n, after.waiting.get n = false
          ∧ after.epochs.get n = if ts.waiting.get n then ts.epochs.get n + 1 else ts.epochs.get n)
      ∧ after.outcome = { tables := ts.waiting, result := .applied, epochs := after.epochs }
      ∧ after.partState = if after.active.full then .run else ts.partState

/-- The pitch or a path distance differs in an application of tables from the value that it replaces; a table without an
earlier copy is not compared (R65). -/
def ActiveTables.trackChanged (old new : ActiveTables) : Prop :=
  (∃ x y, old.constants = some x ∧ new.constants = some y ∧ x[Param.pitch.index] ≠ y[Param.pitch.index])
    ∨ ∃ x y, old.axle = some x ∧ new.axle = some y
        ∧ (x[axleIndex .a3].path ≠ y[axleIndex .a3].path ∨ x[axleIndex .a4].path ≠ y[axleIndex .a4].path)

/-- What an application of the DOOR table leaves at the doors and their members, from `s` before it to `t` (R43, R165). -/
structure State.DoorsLeft (s t : State) : Prop where
  unfitted : ∀ d, t.fitted d = false →
    t.door d = { state := .absent, armed := false, armTimer := none, candidate := none, debounce := 0, settled := none
                 lastEdge := none, reversals := 0, latch := .empty, lockProof := none, releaseHold := none
                 lastCommand := none }
      ∧ t.board.haltSet.has (.door d) = false ∧ t.board.driveInhibit.has (.door d) = false
  newlyFitted : ∀ d, t.fitted d = true → (s.door d).state = .absent →
    t.door d = { state := .unproven, armed := false, armTimer := none, candidate := none, debounce := 0, settled := none
                 lastEdge := none, reversals := 0, latch := .empty, lockProof := none, releaseHold := none
                 lastCommand := none }
      ∧ t.board.haltSet.has (.door d) = true ∧ t.board.driveInhibit.has (.door d) = true
  stillFitted : ∀ d, t.fitted d = true → (s.door d).state ≠ .absent →
    t.door d = { (s.door d) with
        debounce := min (s.door d).debounce (t.doorParams d).debounce
        reversals := min (s.door d).reversals (t.doorParams d).maxReversals }
      ∧ t.board.haltSet.has (.door d) = s.board.haltSet.has (.door d)
      ∧ t.board.driveInhibit.has (.door d) = s.board.driveInhibit.has (.door d)

/-- What an application leaves of the speed-limit map but for its loss notices: LEVEL_SLOW withdrawn at a CORNER table,
SYNC where it was posted at a FIT, and the posted limits replaced at CONSTANTS (R24, R52, R133). -/
def State.LimitsLeft (s t : State) : Prop :=
  ∀ k, t.board.limits.get k =
    if (k = .levelSlow ∧ s.tables.waiting.corner = true)
      ∨ (k = .sync ∧ s.tables.waiting.fit = true ∧ s.path.cycle.syncPosted = true) then none
    else if s.tables.waiting.constants then (s.board.limits.get k).map fun _ => t.paramNat k.param
    else s.board.limits.get k

/-- The loss notices of the slots for which `lost` holds (R31). -/
def lossesOf (lost : SlotId → Bool) : List Loss := ((List.finRange 64).filter lost).filterMap lossOf

/-- Between the other effects of an application of the FIT and the kneel sequencer's request, the loss notices of the slots
found VALID, each taken once; `t` is the state after all of it (R31, R110, R127, R165). -/
def State.FitLossesTaken (s t : State) : Prop :=
  ∃ u v : State,
    (s.tables.waiting.door = true → s.DoorsLeft u) ∧ (s.tables.waiting.door = false → u.doors = s.doors)
      ∧ s.LimitsLeft u
      ∧ (∀ c,
          let r := s.levels.corners.get c
          u.levels.corners.get c = if s.tables.waiting.corner then { (u.levels.corners.get c) with
              ring := [], average := none, inBand := false, slow := false, activeSince := none, mode := .idle }
            else { r with ring := [], average := none, inBand := false })
      ∧ u = { s with
          tables := t.tables, slots := t.slots, path := t.path, track := t.track, echoes := t.echoes
          steering := t.steering
          levels := { s.levels with corners := u.levels.corners }
          doors := { s.doors with records := u.doors.records }
          board := { s.board with
            limits := u.board.limits, haltSet := { s.board.haltSet with doors := u.board.haltSet.doors }
            driveInhibit := { s.board.driveInhibit with doors := u.board.driveInhibit.doors }
            haltLatch := u.board.haltLatch } }
      ∧ (s.tables.waiting.door = false → u.board = { s.board with limits := u.board.limits })
      ∧ u.Takes (fun x l => x.takeLoss true l) (lossesOf fun i => decide (s.slots[i].validity = .valid)) v
      ∧ t = if s.tables.waiting.corner then v.kneelCornerApplied else v

/-- What an application of the pending set leaves at the blocks, from the state `s` before it to the state `t` in which
the blocks find the mark; of the FIT's own effects, those that `State.FitLeft` leaves out (R31, R43, R52, R65, R66, R68, R127,
R133, R147, R165). -/
structure State.ApplicationLeft (s t : State) : Prop where
  corners : s.tables.waiting.corner = true → t.board.limits.levelSlow = none ∧ ∀ c,
    let p := t.cornerParams c
    t.levels.corners.get c = {
      ring := [], average := none, inBand := false, slow := false, activeSince := none
      mode := if s.tables.waiting.fit = true ∧ s.slots[slotHeight c].validity = .valid then .fault else .idle
      target :=
        if p.kerb then
          match s.kneel.state with
          | .lowering => .kneel
          | .knelt => .kneel
          | .paused => .frozen (clampInt p.min p.max ((t.readInt (slotHeight c)).getD
              (if s.levels.ride = .normal then p.normal else p.high)))
          | .ride => .rideLevel
          | .arming => .rideLevel
          | .raising => .rideLevel
        else .rideLevel }
  fitCorners : s.tables.waiting.fit = true → s.tables.waiting.corner = false → ∀ c, t.levels.corners.get c =
    if s.slots[slotHeight c].validity = .valid then { (s.levels.corners.get c) with
      ring := [], average := none, inBand := false, slow := false, activeSince := none, mode := .fault }
    else { (s.levels.corners.get c) with ring := [], average := none, inBand := false }
  losses : s.tables.waiting.fit = true → s.FitLossesTaken t
  quiet : t.doors.faults = { s.doors.faults with egressDrop := t.doors.faults.egressDrop } ∧ ∀ d,
    (s.tables.waiting.door = true → t.fitted d = true ∧ (s.door d).state ≠ .absent) → (t.door d).latch = (s.door d).latch
  doors : s.tables.waiting.door = true → s.tables.waiting.fit = false → s.DoorsLeft t
  unfitted : s.tables.waiting.door = true → ∀ d, t.fitted d = false →
    t.door d = { state := .absent, armed := false, armTimer := none, candidate := none, debounce := 0, settled := none
                 lastEdge := none, reversals := 0, latch := .empty, lockProof := none, releaseHold := none
                 lastCommand := none }
      ∧ t.board.haltSet.has (.door d) = false ∧ t.board.driveInhibit.has (.door d) = false
  latched : s.InterlocksSound → s.tables.waiting.door = true →
    (∃ d, t.fitted d = true ∧ (s.door d).state = .absent) → t.board.haltLatch = true
  emptied : s.tables.active.trackChanged t.tables.active →
    t.track = { s.track with marks := [] } ∧ ∀ r, (t.steering.rear.get r).mode =
      if (s.steering.rear.get r).mode = .follow then .centre else (s.steering.rear.get r).mode
  kept : ¬ s.tables.active.trackChanged t.tables.active →
    t.track = s.track ∧ ∀ r, (t.steering.rear.get r).mode = (s.steering.rear.get r).mode
  angles : (∃ n, s.tables.waiting.get n = true ∧ n.isMotion = true) → ∀ r, (t.steering.rear.get r).lastAngle = 0
  limits : s.tables.waiting.fit = false → s.LimitsLeft t
  ride : t.levels.ride = s.levels.ride
  withoutCorner : s.tables.waiting.fit = false → s.tables.waiting.corner = false → t.levels = s.levels
  withoutDoor : s.tables.waiting.fit = false → s.tables.waiting.door = false →
    t.doors = s.doors ∧ t.board = { s.board with limits := t.board.limits }
  withoutMotion : (∀ n, s.tables.waiting.get n = true → n.isMotion = false) → t.steering = s.steering
  frame : s.tables.waiting.fit = false → t = { s with
    tables := t.tables, track := t.track
    levels := { s.levels with corners := t.levels.corners }
    doors := { s.doors with records := t.doors.records }
    steering := { s.steering with rear := t.steering.rear }
    board := { s.board with
      limits := t.board.limits, haltSet := { s.board.haltSet with doors := t.board.haltSet.doors }
      driveInhibit := { s.board.driveInhibit with doors := t.board.driveInhibit.doors }, haltLatch := t.board.haltLatch } }

/-- What an application of the FIT leaves, the mark having found these slots and SYNC posted or not (R24, R30, R68, R83,
R113, R127, R128, R165, R166); `sound` says that the doors stood in step with the DOOR table before. -/
structure State.FitLeft (found : Vector SignalSlot 64) (posted : Bool) (sound : Prop) (t : State) : Prop where
  slots : ∀ i : SlotId, t.slots[i] = { value := 0, validity := .never, source := none }
  entries : ∀ i : Fin 96, t.path.entries[i] = { counter := none, watch := none }
  cycle : t.path.cycle.sync = .freeRun
    ∧ t.path.cycle.timer = some (if t.inRun then t.paramNat .cyclePeriod else 10) ∧ t.path.cycle.syncPosted = false
  sync : posted = true → t.board.limits.sync = none
  limiter : t.steering.limiter = none
  angles : ∀ r, (t.steering.rear.get r).lastAngle = 0
  echoes : ∀ k, (t.echoes.records.get k).state = .agree ∧ (t.echoes.records.get k).mismatch = 0
    ∧ (t.echoes.records.get k).agreement = 0
  rings : ∀ c, (t.levels.corners.get c).ring = [] ∧ (t.levels.corners.get c).inBand = false
  faults : ∀ c, found[slotHeight c].validity = .valid → t.levels.corners.get c = { (t.levels.corners.get c) with
    ring := [], average := none, inBand := false, slow := false, activeSince := none, mode := .fault }
  doors : sound → ∀ d, found[slotDoorPosition d].validity = .valid → t.fitted d = true → (t.door d).state = .unproven
  halt : (∃ a, found[slotBrakeEcho a].validity = .valid) → t.board.haltConfirmed = false

/-- A response with this data (before its padding) is admitted to the Port U ordinary queue and leaves Port U as `q`
(R186, R187). -/
def State.Answers (s : State) (data : List Byte) (q : PortState) : Prop :=
  s.ports.u.admission .ordinary [{ id := .ext (responseId s.node), data := padFd data }] = some q

/-- The state after a performed request that changes nothing of its own: its response queued and the reset-arm record
CLEAR (R186, R196). -/
def State.answered (s : State) (q : PortState) : State :=
  { s with ports := { s.ports with u := q }, agent := { s.agent with resetArm := none } }

end Sys2Proof.Machine
end

