-- ==== Sys2Proof/Certificates/Slice0/Obligations.lean ====
section
/-! DEFINITION. The statements about the model, for the provers. -/

section
open Sys2Proof Sys2Proof.Machine

/-! ## Steps and resets -/

/-- A step takes the command at the front of the queue, with the rest of the queue waiting. -/
def Obligations.StepTakesFront : Prop :=
  ∀ (c : Instr) (rest : List Instr) (s : State),
    step { s with pending := c :: rest } = exec c { s with pending := rest }

/-- On an empty queue a millisecond passes where no timer is due, and otherwise one due expiry joins the queue. This is
the model's choice (log entry 2). -/
def Obligations.StepOnEmptyQueue : Prop :=
  ∀ s : State, s.pending = [] →
    (s.dueExpiries = [] → step s = .next s.tick)
      ∧ (s.dueExpiries ≠ [] → ∃ c ∈ s.dueExpiries, ∃ n, step s = .next { s with pending := [c], orderCount := n })

/-- POWER_ON and RESET_LINE (R26, R44, R172, R197): every table empty, the part CONFIGURING, both links ACTIVE with
empty queues and a 10 ms cycle timer, both reason sets KNEEL alone, every door ABSENT, every other block at its reset
values, and the node number as the straps are read. That RESET_LINE is the release of the line (log entry 18) and that the
commands waiting outside the part survive (log entry 19) are the model's choices. -/
def Obligations.PowerOnState : Prop :=
  ∀ (straps : BitVec 3) (s : State), ∃ t : State,
    exec (.powerOn straps) s = .next t ∧ exec (.resetLine straps) s = .next t ∧ t.node = straps ∧ t.pending = s.pending
      ∧ (∀ p, t.ports.get p = { link := .active, priority := [], ordinary := [], offer := .empty })
      ∧ t.path.cycle = { sync := .freeRun, timer := some 10, syncPosted := false }
      ∧ (∀ m, t.board.haltSet.has m = decide (m = .kneel) ∧ t.board.driveInhibit.has m = decide (m = .kneel))
      ∧ t.kneel.deadline = none ∧ (∀ d, (t.door d).state = .absent) ∧ t.BlocksReset
      ∧ t.tables.staged = StagedTables.blank ∧ t.tables.active = ActiveTables.absent
      ∧ (∀ n, t.tables.sums.get n = entrySum StagedTables.blank n ∧ t.tables.waiting.get n = false
          ∧ t.tables.epochs.get n = 0 ∧ t.tables.outcome.tables.get n = false ∧ t.tables.outcome.epochs.get n = 0)
      ∧ t.tables.outcome.result = .noResult ∧ t.tables.hold = false ∧ t.tables.partState = .configuring

/-- The in-band reset (R26, R44, R135, R150, R184, R197): a RESET_GO that finds the record ARMED, with the part
CONFIGURING or the vehicle stationary, and Port U ACTIVE. That the commands waiting outside the part survive (log entry 19)
and that an offer awaiting its completion still holds the content that the link is sending (log entry 20) are the model's
choices. -/
def Obligations.InBandReset : Prop :=
  ∀ (rest : List Byte) (s : State), s.agent.resetArm ≠ none → (s.inRun = false ∨ s.stationary = true) →
    s.ports.u.link = .active →
    let reply : Frame := { id := .ext (responseId s.node), data := [12, tagOf rest, 0] }
    ∃ t : State, exec (.resetGo rest) s = .next t ∧ t.node = s.node ∧ t.pending = s.pending
      ∧ t.tables.staged = s.tables.staged ∧ t.tables.active = s.tables.active ∧ t.tables.sums = s.tables.sums
      ∧ t.tables.epochs = s.tables.epochs ∧ t.tables.partState = s.tables.partState ∧ t.tables.hold = false
      ∧ (∀ n, t.tables.waiting.get n = false)
      ∧ ((∀ n, s.tables.waiting.get n = false) → t.tables.outcome = s.tables.outcome)
      ∧ (∀ n, s.tables.waiting.get n = true →
          t.tables.outcome = { tables := s.tables.waiting, result := .cancelled, epochs := s.tables.epochs })
      ∧ (∀ p, (t.ports.get p).link = (s.ports.get p).link ∧ (t.ports.get p).priority = [])
      ∧ t.ports.u.ordinary = [reply] ∧ t.ports.d.ordinary = []
      ∧ (s.ports.u.offer = .empty → t.ports.u.offer = .onOffer .ordinary reply false)
      ∧ (s.ports.d.offer = .empty → t.ports.d.offer = .empty)
      ∧ (∀ p k content renewed, (s.ports.get p).offer = .onOffer k content renewed →
          (t.ports.get p).offer = .awaiting content)
      ∧ (∀ p content, (s.ports.get p).offer = .awaiting content → (t.ports.get p).offer = .awaiting content)
      ∧ t.path.cycle = { sync := .freeRun, syncPosted := false,
                         timer := some (if s.inRun then s.paramNat .cyclePeriod else 10) }
      ∧ t.board.haltSet.kneel = true ∧ (∀ d, t.board.haltSet.doors.get d = s.fitted d)
      ∧ t.board.driveInhibit = t.board.haltSet
      ∧ t.kneel.deadline = (if s.inRun then some (s.paramNat .kneelDeadline) else none)
      ∧ (∀ d, (t.door d).state = if s.fitted d then .unproven else .absent) ∧ t.BlocksReset

/-- The invariants hold right after power-on. -/
def Obligations.ResetIsSound : Prop :=
  State.reset.portsSound ∧ State.reset.InterlocksSound ∧ State.reset.LimitsSound ∧ State.reset.AnglesSound
    ∧ State.reset.levelsSound ∧ State.reset.KneelSound ∧ State.reset.CycleSound ∧ State.reset.echoesSound
    ∧ State.reset.tables.Sound ∧ State.reset.trackSound ∧ State.reset.absentUnsettled

/-! ## Links and queues -/

/-- A bus-off report (R2): an ACTIVE port becomes BUS_OFF, its queues are emptied, its offer is cancelled and PORT_BUS_OFF
is latched; a BUS_OFF port is left as it stands (R3). While a port is BUS_OFF every set is refused. -/
def Obligations.BusOffReport : Prop :=
  ∀ (p : Port) (s : State),
    ((s.ports.get p).link = .active →
      exec (.busOff p) s = .next { s with
        ports := s.ports.set p { link := .busOff, priority := [], ordinary := [], offer := .empty }
        path := { s.path with faults := match p with
          | .u => { s.path.faults with portBusOffU := true }
          | .d => { s.path.faults with portBusOffD := true } } })
      ∧ ((s.ports.get p).link = .busOff →
          exec (.busOff p) s = .next s ∧ ∀ k fs, s.offerSet p k fs = none)

/-- A recovery report (R3): a BUS_OFF port becomes ACTIVE with its queues empty, PORT_BUS_OFF stays latched and can then be
cleared; an ACTIVE port is left as it stands. -/
def Obligations.RecoveryReport : Prop :=
  ∀ (p : Port) (s : State), (s.ports.get p).Sound →
    ((s.ports.get p).link = .busOff →
      ∃ t : State, exec (.recovery p) s = .next t
        ∧ t = { s with ports := s.ports.set p { link := .active, priority := [], ordinary := [], offer := .empty } }
        ∧ (p = .u → t.clearFaults.path.faults.portBusOffU = false)
        ∧ (p = .d → t.clearFaults.path.faults.portBusOffD = false)
        ∧ ∀ k f, ∃ x, (t.ports.get p).admission k [f] = some x)
      ∧ ((s.ports.get p).link = .active → exec (.recovery p) s = .next s)

/-- A transmit-complete report (R20, R21, R26): a frame not renewed leaves its queue and the arbiter chooses again; a
renewed one stays at its head and is offered again with its new content; an offer that awaited its completion ends without
any change to a queue; an empty record is left as it stands. -/
def Obligations.TransmitCompleteReport : Prop :=
  ∀ (p : Port) (s : State), ∃ t : State, exec (.transmitComplete p) s = .next t
    ∧ t = { s with ports := s.ports.set p (t.ports.get p) }
    ∧ (t.ports.get p).link = (s.ports.get p).link
    ∧ match (s.ports.get p).offer with
      | .empty => t = s
      | .awaiting _ =>
        (∀ k, (t.ports.get p).queue k = (s.ports.get p).queue k) ∧ (t.ports.get p).offer = (t.ports.get p).choice
      | .onOffer k _ false =>
        (t.ports.get p).queue k = ((s.ports.get p).queue k).tail
          ∧ (∀ k', k' ≠ k → (t.ports.get p).queue k' = (s.ports.get p).queue k')
          ∧ (t.ports.get p).offer = (t.ports.get p).choice
      | .onOffer k _ true =>
        (∀ k', (t.ports.get p).queue k' = (s.ports.get p).queue k')
          ∧ ∀ f, ((s.ports.get p).queue k).head? = some f → (t.ports.get p).offer = .onOffer k f false

/-- Admission (R18, R19, R20): a set is admitted exactly where the port is ACTIVE and its new frames fit. Then the waiting
frames keep their order, those of other identifiers keep their content, every frame of the set waits in the queue, one of a
waiting frame's identifier in its place and the new ones at the end in the set's order, and the other queue is untouched. Where
nothing was on offer the arbiter then chooses. A frame on offer stays on offer with its content whatever has joined a queue,
and is marked renewed where the set replaces it; an offer that awaits its completion stays as it is. -/
def Obligations.AdmissionRule : Prop :=
  ∀ (x : PortState) (k : QueueKind) (fs : List Frame),
    (x.admission k fs = none ↔ ¬(x.link = .active ∧ (x.queue k).length + newFrames (x.queue k) fs ≤ k.capacity))
      ∧ ∀ y, x.admission k fs = some y → y.link = x.link
        ∧ (∀ k', k' ≠ k → y.queue k' = x.queue k')
        ∧ (∃ tail, (y.queue k).map Frame.id = (x.queue k).map Frame.id ++ tail)
        ∧ (∀ (i : Nat) (f : Frame), (x.queue k)[i]? = some f → f.id ∉ fs.map Frame.id → (y.queue k)[i]? = some f)
        ∧ ((fs.map Frame.id).Nodup →
            let news := fs.filter fun f => decide (f.id ∉ (x.queue k).map Frame.id)
            (∀ f ∈ fs, f ∈ y.queue k) ∧ (y.queue k).length = (x.queue k).length + newFrames (x.queue k) fs
              ∧ y.queue k = ((x.queue k).map fun g => (fs.find? fun f => decide (f.id = g.id)).getD g) ++ news
              ∧ newFrames (x.queue k) fs = news.length)
        ∧ (x.offer = .empty → y.offer = y.choice)
        ∧ (∀ content, x.offer = .awaiting content → y.offer = .awaiting content)
        ∧ ∀ k' content renewed, x.offer = .onOffer k' content renewed →
            y.offer = .onOffer k' content (renewed || decide (k' = k ∧ content.id ∈ fs.map Frame.id))

/-- A BUS_OFF port stays as it stands, silent, at every command but its recovery and the resets that restart the link
controllers (R1, R2, R3, R26). That a frame's arrival there does nothing, and a request's command is refused, is the model's
reading (log entry 7). -/
def Obligations.SilentWhileBusOff : Prop :=
  ∀ (p : Port) (c : Instr) (s t : State), (s.ports.get p).Sound → (s.ports.get p).link = .busOff →
    c ≠ .recovery p → (∀ straps, c ≠ .powerOn straps) → (∀ straps, c ≠ .resetLine straps) →
    exec c s = .next t → t.ports.get p = s.ports.get p

/-- Every step keeps both ports sound: capacities, no identifier twice in a queue, nothing waiting while BUS_OFF, and an offer
record that names the head of its queue (R2, R17, R19, R20). -/
def Obligations.PortsStaySound : Prop :=
  ∀ s t : State, s.portsSound → step s = .next t → t.portsSound

/-! ## Arrivals -/

/-- In CONFIGURING an arrival that is no management request changes nothing (R5). -/
def Obligations.ConfiguringDiscards : Prop :=
  ∀ (p : Port) (f : Frame) (s : State), s.inRun = false → s.isManagement p f.id = false →
    exec (.frameArrival p f) s = .next s

/-- The arrival of a management request frame on an ACTIVE Port U is the request that its data carry (R5, R186; that the
frame's arrival and the request's own command are one thing is the model's choice, log entry 8). -/
def Obligations.ManagementFrame : Prop :=
  ∀ (i : Instr) (data : List Byte) (s : State), i.wellFormed = true → requestData i = some data →
    s.ports.u.link = .active →
    exec (.frameArrival .u { id := .ext (requestId s.node), data := data }) s = exec i s

/-- An unmatched arrival (R7): discarded on Port U, and on Port D forwarded upward under DEFAULT_UPWARD unless R6 forbids
it, with EGRESS_DROP where the frame is refused. -/
def Obligations.UnmatchedArrival : Prop :=
  ∀ (p : Port) (f : Frame) (s : State), s.inRun = true → (s.ports.get p).link = .active →
    s.isManagement p f.id = false → s.matchEntry p f.id = none →
    (p = .u → exec (.frameArrival p f) s = .next s)
      ∧ (p = .d → (s.param .defaultUpward ≠ 1 ∨ s.neverForwarded f.id = true) → exec (.frameArrival p f) s = .next s)
      ∧ (p = .d → s.param .defaultUpward = 1 → s.neverForwarded f.id = false →
          (∀ q, s.ports.u.admission .ordinary [f] = some q →
            exec (.frameArrival p f) s = .next { s with ports := { s.ports with u := q } })
            ∧ (s.ports.u.admission .ordinary [f] = none →
              exec (.frameArrival p f) s =
                .next { s with path := { s.path with faults := { s.path.faults with egressDrop := true } } }))

/-- A matched arrival that is too short, or that repeats the counter value, is discarded whole and leaves its fault alone
(R8, R9). -/
def Obligations.DiscardedArrivals : Prop :=
  ∀ (p : Port) (f : Frame) (m : Matched) (s : State), s.Matches p f m →
    (m.tooShort f.data.length →
      exec (.frameArrival p f) s =
        .next { s with path := { s.path with faults := { s.path.faults with shortFrame := true } } })
      ∧ (∀ start r, ¬ m.tooShort f.data.length → m.entry.counter = some start →
          s.path.entries[m.place].counter = some r → fieldNat f.data start 4 = r.toNat →
          exec (.frameArrival p f) s =
            .next { s with path := { s.path with faults := { s.path.faults with counterRepeat := true } } })

/-- An accepted arrival (R9 to R12, R23), but for a SYNC arrival whose mark applies a FIT: the slots as extraction leaves
them, whatever the jobs then do; the entry's counter record and watch; the faults of the counter and of the values; no other
entry and nothing of the agent changed, and no table and not the cycle mark source but by the mark of a SYNC arrival. -/
def Obligations.AcceptedArrival : Prop :=
  ∀ (p : Port) (f : Frame) (m : Matched) (s : State), s.Accepts p f m →
    let x := s.extract m.place m.extractors f.data
    ¬(m.cls = .sync ∧ s.tables.hold = false ∧ s.tables.waiting.fit = true
      ∧ ({ s with slots := x.slots } : State).stationary = true) →
    let c : Option (BitVec 4) := m.entry.counter.map fun start => BitVec.ofNat 4 (fieldNat f.data start 4)
    let before := s.path.entries[m.place]
    ∃ t : State, exec (.frameArrival p f) s = .next t ∧ t.slots = x.slots
      ∧ t.path.entries[m.place] =
          { counter := if x.implausible then none else c
            watch := if m.entry.watch = 0 then before.watch else some m.entry.watch }
      ∧ (∀ j : Fin 96, j ≠ m.place → t.path.entries[j] = s.path.entries[j])
      ∧ t.path.faults.plausibility = (s.path.faults.plausibility || x.implausible)
      ∧ (∀ v r, c = some v → before.counter = some r →
          t.path.faults.counterJump = (s.path.faults.counterJump || decide (v ≠ r + 1)))
      ∧ (c = none ∨ before.counter = none → t.path.faults.counterJump = s.path.faults.counterJump)
      ∧ (m.cls ≠ .sync → t.path.cycle = s.path.cycle ∧ t.tables = s.tables)
      ∧ t.node = s.node ∧ t.agent = s.agent ∧ t.pending = s.pending

/-- What an accepted arrival does once its slots are stored: who takes its trigger, and what that may change, where the slots
give no notice (R11): the block of the trigger, or the two blocks of a STEER trigger and of a LEVEL_AXLE trigger at a kerb axle
in either order, all of them seeing the slots as the arrival leaves them; nobody where a value was implausible. Forwarding
(R14): with Forward YES, and unless the identifier is one that is never forwarded, the frame is offered with its rewrite to the
ordinary queue of the other port, with EGRESS_DROP where it is refused; otherwise the ports stand. Then trigger, slot notices
and loss notices are each taken once in some order (R11, R31; log entry 4), and at a SYNC arrival the mark among them, or after
them where it applies a FIT (the model's reading, log entry 5). Which blocks take a LEVEL_AXLE trigger is decided by the CORNER
table before the arrival (the model's choice where a mark replaces it, log entry 31). -/
def Obligations.ArrivalFrames : Prop :=
  (∀ (p : Port) (f : Frame) (m : Matched) (s : State), s.Accepts p f m → m.cls ≠ .sync →
    (∀ x ∈ m.extractors, lossOf x.slot = none ∧ s.slotNotices x.slot = []) →
    ∃ t : State, exec (.frameArrival p f) s = .next t
      ∧ match m.trigger with
        | .noTrigger => t = { s with slots := t.slots, path := t.path, ports := t.ports, steering := t.steering }
        | .odometer =>
          t = { s with slots := t.slots, path := t.path, ports := t.ports, steering := t.steering, track := t.track }
        | .steer =>
          t = { s with slots := t.slots, path := t.path, ports := t.ports, steering := t.steering, joints := t.joints,
                       board := t.board, echoes := t.echoes, orderCount := t.orderCount }
        | .brake =>
          t = { s with slots := t.slots, path := t.path, ports := t.ports, steering := t.steering, brakes := t.brakes,
                       board := t.board, echoes := t.echoes }
        | .levelAxle _ =>
          t = { s with slots := t.slots, path := t.path, ports := t.ports, steering := t.steering, levels := t.levels,
                       board := t.board, kneel := t.kneel, brakes := t.brakes, orderCount := t.orderCount }
        | .door d =>
          t = { s with slots := t.slots, path := t.path, ports := t.ports, steering := t.steering, doors := t.doors,
                       board := t.board, kneel := t.kneel, levels := t.levels }
            ∧ ∀ d', d' ≠ d → t.door d' = s.door d'
        | .kneel =>
          t = { s with slots := t.slots, path := t.path, ports := t.ports, steering := t.steering, kneel := t.kneel,
                       board := t.board, levels := t.levels, brakes := t.brakes })
    ∧ (∀ (p : Port) (f : Frame) (m : Matched) (s : State), s.Accepts p f m →
        let x := s.extract m.place m.extractors f.data
        let seen : State := { s with slots := x.slots }
        let out : Frame := { f with data := (seen.rewritten m.rewrite f.data).1 }
        let trigger := if x.implausible then .noTrigger else m.trigger
        let notices := x.stored.flatMap s.slotNotices ++ (x.lost.filterMap lossOf).map .loss
        let takers : List Delivery := match trigger with
          | .noTrigger => []
          | .odometer => [.odometer]
          | .steer => [.steer, .joints]
          | .brake => [.brake]
          | .levelAxle a => if s.carriesKerb a then [.level a, .kneelLevel] else [.level a]
          | .door d => [.door d]
          | .kneel => [.kneel]
        let marksFit := s.tables.hold = false ∧ s.tables.waiting.fit = true ∧ seen.stationary = true
        ∃ t u : State, exec (.frameArrival p f) s = .next t
          ∧ u = { s with slots := x.slots, path := u.path, ports := u.ports
                         steering := { s.steering with limiter := u.steering.limiter } }
          ∧ (m.rewrite = .noRewrite → out = f)
          ∧ (m.entry.forward = true → s.neverForwarded f.id = false →
              s.Offered p.other .ordinary [out] u s.path.faults.egressDrop u.path.faults.egressDrop)
          ∧ (m.entry.forward = false ∨ s.neverForwarded f.id = true →
              u.ports = s.ports ∧ u.steering = s.steering ∧ u.path.faults.egressDrop = s.path.faults.egressDrop)
          ∧ (m.cls ≠ .sync → u.Takes State.deliver (takers ++ notices) t)
          ∧ (m.cls = .sync → ¬marksFit → u.Takes State.deliver (takers ++ notices ++ [.sync]) t)
          ∧ (m.cls = .sync → marksFit → ∃ v, u.Takes State.deliver (takers ++ notices) v ∧ t = v.syncArrival)
          ∧ (m.cls ≠ .sync → notices = [] →
              let v : State := { u with orderCount := s.orderCount + 1 }
              match trigger with
              | .noTrigger => t = u
              | .odometer => t = u.odometerTrigger
              | .steer => t = v.steerTrigger.jointTrigger ∨ t = v.jointTrigger.steerTrigger
              | .brake => t = u.brakeTrigger
              | .levelAxle a =>
                if s.carriesKerb a then
                  t = (v.levelTrigger a).kneelLevelTrigger ∨ t = v.kneelLevelTrigger.levelTrigger a
                else t = u.levelTrigger a
              | .door d => t = u.doorTrigger d
              | .kneel => t = u.kneelTrigger)
          ∧ ∀ d, m.cls ≠ .sync → notices = [d] → x.implausible = true ∨ m.trigger = .noTrigger → t = u.deliver d)
    ∧ ∀ (s : State) (i : SlotId),
        (.traction ∈ s.slotNotices i ↔ i = slotTractionDemand)
          ∧ (.levelRequest ∈ s.slotNotices i ↔ i = slotLevelRequest)
          ∧ (∀ d, .doorRequest d ∈ s.slotNotices i ↔ i = slotDoorRequest d)
          ∧ (.brakeEcho ∈ s.slotNotices i ↔ ∃ a, i = slotBrakeEcho a)
          ∧ (∀ k, .echo k ∈ s.slotNotices i ↔ ∃ e, s.echoSpec k = some e ∧ e.slot = i)
          ∧ (∀ c, lossOf i = some (.height c) ↔ i = slotHeight c)
          ∧ (∀ d, lossOf i = some (.position d) ↔ i = slotDoorPosition d)
          ∧ (∀ a, lossOf i = some (.brakeEcho a) ↔ i = slotBrakeEcho a)
          ∧ (s.deliver .traction = s.tractionNotice ∧ s.deliver .levelRequest = s.levelRequestNotice
              ∧ (∀ d, s.deliver (.doorRequest d) = s.doorRequest d) ∧ s.deliver .brakeEcho = s.recomputeHalt
              ∧ (∀ k, s.deliver (.echo k) = s.echoArrival k) ∧ (∀ c, s.deliver (.loss (.height c)) = s.heightLoss c)
              ∧ (∀ d, s.deliver (.loss (.position d)) = s.losePosition d false)
              ∧ ∀ a, s.deliver (.loss (.brakeEcho a)) = s.recomputeHalt)
          ∧ s.deliver .odometer = s.odometerTrigger ∧ s.deliver .steer = s.steerTrigger
          ∧ s.deliver .joints = s.jointTrigger ∧ s.deliver .brake = s.brakeTrigger
          ∧ (∀ a, s.deliver (.level a) = s.levelTrigger a) ∧ s.deliver .kneelLevel = s.kneelLevelTrigger
          ∧ (∀ d, s.deliver (.door d) = s.doorTrigger d) ∧ s.deliver .kneel = s.kneelTrigger
          ∧ s.deliver .sync = s.syncArrival

/-- Extraction (R10, R28, R29): the last extractor of a list decides its slot, a plausible value making it VALID with that
value, an implausible one making it STALE with the value it had; a slot that it does not name is as the extractors before it
left it. -/
def Obligations.ExtractionRule : Prop :=
  ∀ (s : State) (i : Fin 96) (xs : List Extractor) (x : Extractor) (data : List Byte), 1 ≤ x.width → x.width ≤ 32 →
    let a := s.extract i xs data
    let b := s.extract i (xs ++ [x]) data
    let n := fieldNat data x.start x.width
    let v : Int := if x.signed then signedOf x.width n else n
    let low : Int := if x.signed then x.minimum.toInt else x.minimum.toNat
    let high : Int := if x.signed then x.maximum.toInt else x.maximum.toNat
    (∀ j, j ≠ x.slot → b.slots[j] = a.slots[j])
      ∧ (low ≤ v ∧ v ≤ high →
          b.slots[x.slot] = { value := BitVec.ofInt 32 v, validity := .valid, source := some i }
            ∧ x.slot ∈ b.stored ∧ b.implausible = a.implausible ∧ b.lost = a.lost)
      ∧ (¬(low ≤ v ∧ v ≤ high) →
          b.slots[x.slot] = { value := a.slots[x.slot].value, validity := .stale, source := some i }
            ∧ b.stored = a.stored ∧ b.implausible = true
            ∧ (x.slot ∈ b.lost ↔ x.slot ∈ a.lost ∨ a.slots[x.slot].validity = .valid))

/-- The traction gate (R16, R48): while the drive-inhibit set is non-empty the demand field of a forwarded frame is 0 and
every field beside it is as received; while it is empty the frame is as received. -/
def Obligations.TractionGate : Prop :=
  ∀ (s : State) (data : List Byte) (start width : Nat), start + width ≤ 8 * data.length →
    (s.board.driveInhibit.isEmpty = true → (s.rewritten (.gateTraction start width) data).1 = data)
      ∧ (s.board.driveInhibit.isEmpty = false →
          let out := (s.rewritten (.gateTraction start width) data).1
          out.length = data.length ∧ fieldNat out start width = 0
            ∧ ∀ a w, (a + w ≤ start ∨ start + width ≤ a) → fieldNat out a w = fieldNat data a w)

/-- The front-axle limiter (R15, R84, R85): the rewritten field reads as the limiter's result, within ±4,551, within the
rate of the record where it holds a value, and every field beside it is as received; at an arrival the record takes the
result where the rewritten frame is admitted, and is kept, with EGRESS_DROP, where it is refused, and where nothing is
forwarded. -/
def Obligations.FrontLimiter : Prop :=
  (∀ (s : State) (data : List Byte) (start width : Nat), 14 ≤ width → width ≤ 32 → start + width ≤ 8 * data.length →
    s.AnglesSound →
    let q := signedOf width (fieldNat data start width)
    let m : Int := min (s.readSchedule .limA1) 4551
    let r : Int := s.readSchedule .rateA1
    let out := (s.rewritten (.clampFront start width) data).1
    let result := signedOf width (fieldNat out start width)
    out.length = data.length ∧ result = s.limitFront q
      ∧ (s.rewritten (.clampFront start width) data).2 = some result
      ∧ -4551 ≤ result ∧ result ≤ 4551
      ∧ (∀ p, s.steering.limiter = some p → result = clampInt (p - r) (p + r) (clampInt (-m) m q))
      ∧ (s.steering.limiter = none → s.readAngle slotFrontAngle = none → result = clampInt (-m) m q)
      ∧ (∀ a, s.steering.limiter = none → s.readAngle slotFrontAngle = some a →
          let p := clampInt (-4551) 4551 a.toInt
          result = clampInt (p - r) (p + r) (clampInt (-m) m q))
      ∧ ∀ a w, (a + w ≤ start ∨ start + width ≤ a) → fieldNat out a w = fieldNat data a w)
    ∧ ∀ (p : Port) (f : Frame) (m : Matched) (s : State) (start width : Nat), s.Accepts p f m → m.cls ≠ .sync →
        m.rewrite = .clampFront start width →
        let seen : State := { s with slots := (s.extract m.place m.extractors f.data).slots }
        let result := seen.limitFront (signedOf width (fieldNat f.data start width))
        let out : Frame := { f with data := (seen.rewritten m.rewrite f.data).1 }
        ∃ t : State, exec (.frameArrival p f) s = .next t
          ∧ (m.entry.forward = true → s.neverForwarded f.id = false →
              (∀ y, (s.ports.get p.other).admission .ordinary [out] = some y →
                t.steering.limiter = some result ∧ t.path.faults.egressDrop = s.path.faults.egressDrop)
              ∧ ((s.ports.get p.other).admission .ordinary [out] = none →
                t.steering.limiter = s.steering.limiter ∧ t.path.faults.egressDrop = true))
          ∧ (m.entry.forward = false ∨ s.neverForwarded f.id = true →
              t.steering.limiter = s.steering.limiter ∧ t.path.faults.egressDrop = s.path.faults.egressDrop)

/-- The expiry of an entry's watch (R13, R29): each VALID slot that the entry fed last becomes STALE and keeps its value and
source, every other slot stays; the counter record becomes NONE and the watch idle, and the fault of the entry's class is
latched, with the cycle source and SYNC at the SYNC entry's (R23). After all of that the loss notices of the slots made STALE,
and of no other, are each taken once, in some order (R31, log entry 4): a height by the level controller, a door position by
the door interlock unit, a brake echo by the brake distributor (R110, R127, R163). For an idle watch the command does nothing
(the model's choice, log entry 3). -/
def Obligations.WatchExpiry : Prop :=
  (∀ (i : Fin 96) (s : State),
    (s.path.entries[i].watch = none → exec (.watchExpiry i) s = .next s)
      ∧ (s.path.entries[i].watch ≠ none → ∃ t : State, exec (.watchExpiry i) s = .next t
          ∧ (∀ j : SlotId, t.slots[j] =
              if s.slots[j].source = some i ∧ s.slots[j].validity = .valid then
                { s.slots[j] with validity := .stale } else s.slots[j])
          ∧ t.path.entries[i] = { counter := none, watch := none }
          ∧ (∀ j : Fin 96, j ≠ i → t.path.entries[j] = s.path.entries[j])
          ∧ (s.entryClass i = some .sample → t.path.faults = { s.path.faults with sampleLost := true })
          ∧ (s.entryClass i = some .command → t.path.faults = { s.path.faults with commandLost := true })
          ∧ (s.entryClass i = some .status → t.path.faults = { s.path.faults with statusLost := true })
          ∧ (s.entryClass i = some .sync → s.path.cycle.sync = .followingSync →
              t.path.faults = { s.path.faults with syncLost := true }
                ∧ t.path.cycle = { sync := .freeRun, timer := some (s.paramNat .cyclePeriod), syncPosted := true }
                ∧ t.board.limits.sync = some (s.paramNat .limitSync))
          ∧ (s.entryClass i ≠ some .sync ∨ s.path.cycle.sync = .freeRun → t.path.cycle = s.path.cycle)
          ∧ (s.entryClass i = some .sync → s.path.cycle.sync = .freeRun → t.path.faults = s.path.faults)
          ∧ t = { s with slots := t.slots, path := t.path, ports := t.ports, board := t.board, levels := t.levels,
                         doors := t.doors, orderCount := t.orderCount }
          ∧ ∃ u : State, u = { s with
              slots := t.slots, path := t.path
              board := { s.board with limits := { s.board.limits with
                sync := if s.entryClass i = some .sync ∧ s.path.cycle.sync = .followingSync then
                  some (s.paramNat .limitSync) else s.board.limits.sync } } }
            ∧ u.Takes (fun x l => x.takeLoss false l)
                (lossesOf fun j => decide (s.slots[j].source = some i ∧ s.slots[j].validity = .valid)) t))
    ∧ (∀ (s : State) (c : Corner) (d : Door) (a : Axle),
        s.takeLoss false (.height c) = s.heightLoss c ∧ s.takeLoss false (.position d) = s.losePosition d false
          ∧ s.takeLoss false (.brakeEcho a) = s.recomputeHalt)
    ∧ ∀ i : SlotId, (∀ c, lossOf i = some (.height c) ↔ i = slotHeight c)
        ∧ (∀ d, lossOf i = some (.position d) ↔ i = slotDoorPosition d)
        ∧ ∀ a, lossOf i = some (.brakeEcho a) ↔ i = slotBrakeEcho a

/-! ## Cycle marks and tables -/

/-- Cycle marks, of the internal timer and of accepted SYNC arrivals (R22, R23, R55, R179, R180, R181, R183): what a mark does
with the pending set, and that in RUN each block then acts on the mark once, in some order (log entry 4): the chassis state
frame, the steering unit, the joint unit and the brake distributor at every mark, the kneel sequencer where a CORNER table was
applied or RUN entered (R137), and the cycle mark source at a SYNC arrival in FREE_RUN that applies no FIT; in CONFIGURING none
of them acts. At an expiry the source stays in FREE_RUN and its timer is restarted with the period as the mark leaves it; at a
SYNC arrival that applies no FIT the source follows SYNC from then on, its timer stopped and SYNC withdrawn where it was
posted. With nothing applied, an expiry leaves tables, doors, kneel sequencer, level controller, track, slots and agent
unchanged, and in CONFIGURING everything but the timer; so does a SYNC arrival without trigger and notices, but for the slots.
For an idle timer the expiry does nothing (the model's choice, log entry 3). -/
def Obligations.CycleTimerExpiry : Prop :=
  (∀ s : State,
    (s.path.cycle.timer = none → exec .cycleTimerExpiry s = .next s)
      ∧ (s.path.cycle.timer ≠ none → s.path.cycle.sync = .freeRun → ∃ t : State, exec .cycleTimerExpiry s = .next t
          ∧ t.path.cycle.sync = .freeRun
          ∧ t.path.cycle.timer = some (if t.inRun then t.paramNat .cyclePeriod else 10)
          ∧ t.node = s.node ∧ t.agent = s.agent ∧ t.pending = s.pending
          ∧ s.tables.Marked s.stationary t.tables
          ∧ ((s.tables.hold = true ∨ ∀ n, s.tables.waiting.get n = false) →
              (s.inRun = false → t = { s with path := { s.path with
                  cycle := { s.path.cycle with timer := some 10 } } })
                ∧ t = { s with path := t.path, ports := t.ports, board := t.board, steering := t.steering,
                               joints := t.joints, brakes := t.brakes, echoes := t.echoes, orderCount := t.orderCount })))
    ∧ (∀ (p : Port) (f : Frame) (m : Matched) (s : State), s.Accepts p f m → m.cls = .sync →
        let x := s.extract m.place m.extractors f.data
        let seen : State := { s with slots := x.slots }
        ∃ t : State, exec (.frameArrival p f) s = .next t
          ∧ t.node = s.node ∧ t.agent = s.agent ∧ t.pending = s.pending
          ∧ s.tables.Marked seen.stationary t.tables
          ∧ (¬(s.tables.hold = false ∧ s.tables.waiting.fit = true ∧ seen.stationary = true) →
              (s.path.cycle.sync = .freeRun →
                t.path.cycle = { sync := .followingSync, timer := none, syncPosted := false }
                  ∧ (s.path.cycle.syncPosted = true → t.board.limits.sync = none))
                ∧ (s.path.cycle.sync = .followingSync → t.path.cycle = s.path.cycle))
          ∧ ((s.tables.hold = true ∨ ∀ n, s.tables.waiting.get n = false) → m.trigger = .noTrigger →
              (∀ e ∈ m.extractors, lossOf e.slot = none ∧ s.slotNotices e.slot = []) →
              t = { s with slots := x.slots, path := t.path, ports := t.ports, board := t.board, steering := t.steering,
                           joints := t.joints, brakes := t.brakes, echoes := t.echoes, orderCount := t.orderCount }))
    ∧ (∀ s : State,
        let w := s.cycleMark false
        (s.path.cycle.timer ≠ none → s.path.cycle.sync = .freeRun →
            exec .cycleTimerExpiry s = .next { w with path := { w.path with cycle := { w.path.cycle with
              timer := some (if w.inRun then w.paramNat .cyclePeriod else 10) } } })
          ∧ s.syncArrival = s.cycleMark (decide (s.path.cycle.sync = .freeRun)))
    ∧ (∀ (s : State) (syncFromFreeRun : Bool),
        let u := s.storeMark.1
        let t := s.cycleMark syncFromFreeRun
        let motion := [TableName.fit, .schedule, .axle, .constants].any s.tables.waiting.get
        let applied := fun n => !s.tables.hold && !(motion && s.inRun && !s.stationary) && s.tables.waiting.get n
        let entered := !s.inRun && u.inRun
        s.tables.Marked s.stationary u.tables
          ∧ ((∀ n, applied n = false) → u = { s with tables := u.tables })
          ∧ (u.inRun = false → t = u)
          ∧ (u.inRun = true → u.Takes State.markAction ([.chassis, .steering, .joints, .brakes]
              ++ (if applied .corner || entered then [.kneel entered] else [])
              ++ (if syncFromFreeRun && !applied .fit then [.followSync] else [])) t))
    ∧ ∀ s : State,
        s.markAction .chassis = s.offerChassis ∧ s.markAction .steering = s.steerMark
          ∧ s.markAction .joints = s.jointMark ∧ s.markAction .brakes = s.brakeMark
          ∧ (∀ b, s.markAction (.kneel b) = s.kneelMark b)
          ∧ s.markAction .followSync = { s with
              path := { s.path with cycle := { sync := .followingSync, timer := none, syncPosted := false } }
              board := { s.board with limits := { s.board.limits with
                sync := if s.path.cycle.syncPosted then none else s.board.limits.sync } } }

/-- What an application of the pending set leaves at the blocks. Of the FIT, at a mark of the internal timer and at the mark
of an accepted SYNC arrival (R24, R30, R83, R128, R165, R166): every slot NEVER, the classifier's records and the limiter at
their starting values, the source in FREE_RUN with its timer started, the echo records in AGREE without counts, the rings and
both last angle commands emptied, SYNC withdrawn, every corner whose height was VALID in FAULT with nothing kept (R127), every
fitted door whose position was VALID UNPROVEN, and HALT_CONFIRMED gone where an echo was VALID. Of any set, before the blocks
act on the mark in any other way (R181; log entry 6): of the FIT, the loss notices of the slots found VALID, each taken once
(R31), a door's with HOLD and no LOCK_LOST or SIGNAL_LOST (R165); at a CORNER table every corner IDLE with an empty record, its
target that of the kneel state, and LEVEL_SLOW withdrawn (R133, R147); at a DOOR table every door ABSENT, newly UNPROVEN or
kept with its counts lowered, and its member in step (R165); the track queue emptied where P, L3 or L4 differs from an earlier
copy, and each axle in FOLLOW then in CENTRE (R65, R66); the limits of the posted kinds replaced at CONSTANTS (R52); both last
angle commands 0 at a motion table (R68). Of the level controller's own part, a kerb corner keeps its target source, a frozen
height clamped. That a SYNC arrival's other notices come before a mark that applies a FIT is the model's reading (log
entry 5). -/
def Obligations.FitApplication : Prop :=
  (∀ s : State, s.path.cycle.timer ≠ none → s.path.cycle.sync = .freeRun → s.tables.hold = false →
    s.tables.waiting.fit = true → (s.inRun = false ∨ s.stationary = true) →
    ∃ t : State, exec .cycleTimerExpiry s = .next t
      ∧ State.FitLeft s.slots s.path.cycle.syncPosted s.InterlocksSound t)
    ∧ (∀ (p : Port) (f : Frame) (m : Matched) (s : State), s.Accepts p f m → m.cls = .sync → s.tables.hold = false →
        s.tables.waiting.fit = true →
        let slots := (s.extract m.place m.extractors f.data).slots
        ({ s with slots := slots } : State).stationary = true →
        ∃ t : State, exec (.frameArrival p f) s = .next t
          ∧ State.FitLeft slots s.path.cycle.syncPosted s.InterlocksSound t)
    ∧ (∀ s : State, s.tables.hold = false → (∃ n, s.tables.waiting.get n = true) →
        ((∃ n, s.tables.waiting.get n = true ∧ n.isMotion = true) → s.inRun = false ∨ s.stationary = true) →
        s.ApplicationLeft s.storeMark.1)
    ∧ (∀ s : State,
        s.cornerApplied.board = { s.board with limits := { s.board.limits with levelSlow := none } }
          ∧ ∀ c,
            let p := s.cornerParams c
            s.cornerApplied.levels.corners.get c = {
              ring := [], average := none, inBand := false, slow := false, activeSince := none, mode := .idle
              target :=
                if p.kerb then
                  match (s.levels.corners.get c).target with
                  | .rideLevel => .rideLevel
                  | .kneel => .kneel
                  | .frozen h => .frozen (if h < p.min then p.min else if p.max < h then p.max else h)
                else .rideLevel })
    ∧ ∀ (s : State) (c : Corner) (d : Door) (a : Axle),
        s.takeLoss true (.height c) = s.heightLoss c
          ∧ s.takeLoss true (.position d) = s.losePosition d true
          ∧ s.takeLoss true (.brakeEcho a) = s.recomputeHalt

/-- At a mark in RUN that finds JOINT1 missing, both rear axles become LOCKED with their kinds posted, and both joints are
damped FULL with their envelope states kept (R82, R95): at a mark of the internal timer, and at that of an accepted SYNC
arrival (the joints there where the arrival is no STEER trigger, at which the joint unit acts in its own right). The steering
unit's part offers the LOCK set to the Port D priority queue, with last angle commands 0 and the echo records told where it is
admitted (R81, R167), and the joint unit's the FULL set to the Port D ordinary queue; each latches its own EGRESS_DROP where its
set is refused (R81, R94). With JOINT1 present neither does anything. That each mark takes both parts once is CycleTimerExpiry's
statement. -/
def Obligations.MissingJointLocksAxles : Prop :=
  let locked := fun t : State => (∀ r, (t.steering.rear.get r).mode = .locked)
    ∧ t.board.limits.steerA3 = some (t.paramNat .limitSteerA3) ∧ t.board.limits.steerA4 = some (t.paramNat .limitSteerA4)
  let stiff := fun s t : State =>
    ∀ j, t.joints.records.get j = { envelope := (s.joints.records.get j).envelope, damping := .full }
  (∀ s : State, s.path.cycle.timer ≠ none → s.path.cycle.sync = .freeRun → s.inRun = true →
    s.present (slotJoint .j1) = false →
    ∃ t : State, exec .cycleTimerExpiry s = .next t ∧ locked t ∧ stiff s t)
    ∧ (∀ (p : Port) (f : Frame) (m : Matched) (s : State), s.Accepts p f m → m.cls = .sync →
        ({ s with slots := (s.extract m.place m.extractors f.data).slots } : State).present (slotJoint .j1) = false →
        ∃ t : State, exec (.frameArrival p f) s = .next t ∧ locked t ∧ (m.trigger ≠ .steer → stiff s t))
    ∧ ∀ s : State,
        let t := s.steerMark
        let u := s.jointMark
        let locks := s.emitFrames [(.steer .a3, [1, 0, 0]), (.steer .a4, [1, 0, 0])]
        s.markAction .steering = t ∧ s.markAction .joints = u
          ∧ (s.present (slotJoint .j1) = true → t = s ∧ u = s)
          ∧ (s.present (slotJoint .j1) = false →
              locked t ∧ stiff s u
                ∧ s.Offered .d .priority locks t s.steering.faults.egressDrop t.steering.faults.egressDrop
                ∧ (∀ y, s.ports.d.admission .priority locks = some y →
                    (∀ r, (t.steering.rear.get r).lastAngle = 0)
                      ∧ t.echoes = ((s.echoEmission (.steer .a3) 0).echoEmission (.steer .a4) 0).echoes)
                ∧ (s.ports.d.admission .priority locks = none →
                    (∀ r, (t.steering.rear.get r).lastAngle = (s.steering.rear.get r).lastAngle) ∧ t.echoes = s.echoes)
                ∧ t = { s with
                    ports := t.ports, echoes := t.echoes
                    board := { s.board with limits := { s.board.limits with
                      steerA3 := t.board.limits.steerA3, steerA4 := t.board.limits.steerA4 } }
                    steering := { s.steering with
                      rear := t.steering.rear
                      faults := { s.steering.faults with egressDrop := t.steering.faults.egressDrop } } }
                ∧ s.Offered .d .ordinary (s.emitFrames [(.damp .j1, [2]), (.damp .j2, [2])]) u
                    s.joints.faults.egressDrop u.joints.faults.egressDrop
                ∧ u = { s with
                    ports := u.ports
                    joints := { records := u.joints.records
                                faults := { s.joints.faults with egressDrop := u.joints.faults.egressDrop } } })

/-- Every step keeps the table store sound: its sums are those of the staged copies, the active tables and those that the
pending set would make active pass GEOMETRY, DUPLICATE and INCOMPLETE, and the part is in RUN exactly while all seven tables
are active (R175, R177, R183). -/
def Obligations.TablesStaySound : Prop :=
  ∀ s t : State, s.tables.Sound → step s = .next t → t.tables.Sound

/-- Active tables change only at cycle marks (of the internal timer or of an accepted SYNC arrival), power-on and the reset
line, and in RUN a motion table changes at a mark only while the vehicle is stationary at it (R180). -/
def Obligations.ActiveTablesChangeOnlyAtMarks : Prop :=
  ∀ (c : Instr) (s t : State), exec c s = .next t → t.tables.active ≠ s.tables.active →
    let motionKept := t.tables.active.fit = s.tables.active.fit ∧ t.tables.active.schedule = s.tables.active.schedule
      ∧ t.tables.active.axle = s.tables.active.axle ∧ t.tables.active.constants = s.tables.active.constants
    (∃ straps, c = .powerOn straps ∨ c = .resetLine straps)
      ∨ (∃ p f m, c = .frameArrival p f ∧ s.Accepts p f m ∧ m.cls = .sync
          ∧ t.tables.active = s.tables.prospect ∧ s.tables.hold = false
          ∧ (({ s with slots := (s.extract m.place m.extractors f.data).slots } : State).stationary = false → motionKept))
      ∨ (c = .cycleTimerExpiry ∧ t.tables.active = s.tables.prospect ∧ s.tables.hold = false
          ∧ (s.inRun = true → s.stationary = false → motionKept))

/-- Every step keeps the cycle mark source sound: its timer runs exactly in FREE_RUN, SYNC is posted only there, and it
follows SYNC only in RUN (R22, R23). -/
def Obligations.CycleStaysSound : Prop :=
  ∀ s t : State, s.CycleSound → step s = .next t → t.CycleSound

/-- Reading back the image of a legal entry gives the entry with nothing coerced, for each of the seven tables (R173, R174,
R198). -/
def Obligations.ImagesReadBack : Prop :=
  (∀ (node : BitVec 3) (e : FitEntry), e.Legal node → fitOf node (fitBytes (some e)) = some (some e, 0))
    ∧ (∀ node : BitVec 3, fitOf node (fitBytes none) = some (none, 0))
    ∧ (∀ (i : Fin 8) (y : Schedule), y.Legal i → scheduleOf i (scheduleBytes y) = (y, 0))
    ∧ (∀ (i : Fin 4) (a : AxleParams), a.Legal i → axleOf i (axleBytes a) = (a, 0))
    ∧ (∀ (i : Fin 8) (c : CornerParams), c.Legal i → cornerOf i (cornerBytes c) = some (c, 0))
    ∧ (∀ d : DoorParams, d.Legal → doorOf (doorBytes d) = some (d, 0))
    ∧ (∀ g : GuardRule, guardOf (guardBytes g) = some (g, 0))
    ∧ (∀ (i : Fin 32) (x : Int), paramRanges[i].1 ≤ x → x ≤ paramRanges[i].2 → constantOf i (constantBytes x) = (x, 0))

/-- Whatever image a write carries, the entry that it leaves is legal (R173, R174). -/
def Obligations.WrittenEntriesAreLegal : Prop :=
  (∀ (node : BitVec 3) (bs : List Byte) (e : FitEntry) (n : Nat), fitOf node bs = some (some e, n) → e.Legal node)
    ∧ (∀ (i : Fin 8) (bs : List Byte), (scheduleOf i bs).1.Legal i)
    ∧ (∀ (i : Fin 4) (bs : List Byte), (axleOf i bs).1.Legal i)
    ∧ (∀ (i : Fin 8) (bs : List Byte) (c : CornerParams) (n : Nat), cornerOf i bs = some (c, n) → c.Legal i)
    ∧ (∀ (bs : List Byte) (d : DoorParams) (n : Nat), doorOf bs = some (d, n) → d.Legal)
    ∧ (∀ (i : Fin 32) (bs : List Byte), paramRanges[i].1 ≤ (constantOf i bs).1 ∧ (constantOf i bs).1 ≤ paramRanges[i].2)

/-! ## Interlock board -/

/-- Posts and withdrawals (R42, R45): both sets gain or lose the one member, and a post that takes the halt set from empty to
non-empty sets the halt latch, which nothing here clears. That this holds of a post of KNEEL to a non-empty halt set is the
model's reading of R42 against R136 (log entry 33). -/
def Obligations.PostsAndWithdrawals : Prop :=
  ∀ (s : State) (m : Reason),
    (∀ m', (s.postReason m).board.haltSet.has m' = (decide (m' = m) || s.board.haltSet.has m')
        ∧ (s.postReason m).board.driveInhibit.has m' = (decide (m' = m) || s.board.driveInhibit.has m')
        ∧ (s.withdrawReason m).board.haltSet.has m' = (!decide (m' = m) && s.board.haltSet.has m')
        ∧ (s.withdrawReason m).board.driveInhibit.has m' = (!decide (m' = m) && s.board.driveInhibit.has m'))
      ∧ ((∀ m', s.board.haltSet.has m' = false) → (s.postReason m).board.haltLatch = true)
      ∧ ((∃ m', s.board.haltSet.has m' = true) → (s.postReason m).board.haltLatch = s.board.haltLatch)
      ∧ (s.withdrawReason m).board.haltLatch = s.board.haltLatch
      ∧ s.postReason m = { s with board := { s.board with
          haltSet := (s.postReason m).board.haltSet, driveInhibit := (s.postReason m).board.driveInhibit
          haltLatch := (s.postReason m).board.haltLatch } }
      ∧ s.withdrawReason m = { s with board := { s.board with
          haltSet := (s.withdrawReason m).board.haltSet, driveInhibit := (s.withdrawReason m).board.driveInhibit } }

/-- The halt latch at a slot notice for TRACTION_DEMAND (R39, R46, R47): released, with HALT_CONFIRMED cleared, exactly where
it is SET, the halt set is empty, the demand is at least HALT_RELEASE_DEMAND and every enabled DRIVE_RELEASE rule is
true. -/
def Obligations.TractionNotice : Prop :=
  ∀ s : State,
    let released := s.board.haltLatch = true ∧ (∀ m, s.board.haltSet.has m = false)
      ∧ (∃ v, s.readInt slotTractionDemand = some v ∧ s.param .haltReleaseDemand ≤ v)
      ∧ (∀ r ∈ s.guardRules, r.enabled = true → r.gate = .driveRelease → s.ruleTrue r = true)
    (released → s.tractionNotice = { s with board := { s.board with haltLatch := false, haltConfirmed := false } })
      ∧ (¬released → s.tractionNotice = s)

/-- Guard rules (R33, R37, R38, R39): a slot is absent exactly where it is not VALID or its value lies outside its usable
range; a rule on an absent slot is true exactly under the four lenient predicates, a rule on a present one as its predicate
compares the slot with the constant in the order of its swap flag, and a gate's rule part is true exactly where every
enabled rule of the gate is. -/
def Obligations.GuardRules : Prop :=
  ∀ s : State,
    (∀ r : GuardRule, s.readInt r.slot = none →
      (s.ruleTrue r = true ↔ r.predicate = .unord ∨ r.predicate = .ne ∨ r.predicate = .nlt ∨ r.predicate = .nle))
      ∧ (∀ (r : GuardRule) (v : Int), s.readInt r.slot = some v →
          let a := if r.swap then r.constant.toInt else v
          let b := if r.swap then v else r.constant.toInt
          (s.ruleTrue r = true ↔ match r.predicate with
            | .eq => a = b
            | .lt => a < b
            | .le => a ≤ b
            | .unord => False
            | .ne => a ≠ b
            | .nlt => ¬ a < b
            | .nle => ¬ a ≤ b
            | .ord => True))
      ∧ (∀ i : SlotId, s.readInt i = none ↔
          s.slots[i].validity ≠ .valid
            ∨ ∃ low high, usableRange i = some (low, high)
              ∧ (s.slots[i].value.toInt < low ∨ high < s.slots[i].value.toInt))
      ∧ (∀ g : Gate, s.rulePart g = true ↔
          ∀ r ∈ s.guardRules, r.enabled = true → r.gate = g → s.ruleTrue r = true)

/-- The requested limit and the chassis state frame. The limit (R51) is NONE for an empty map and otherwise the smallest limit
held. The frame's 16 bytes hold every item of R56 and R57 where 12.6 places it, the limit in bytes 8 and 9 with NONE as 0xFFFF.
It is offered as a one-frame set to the Port U ordinary queue, with the board's EGRESS_DROP where it is refused (R55, R58). A
mark, of the internal timer or of a SYNC arrival, that leaves the part in RUN does this to Port U and to the board's fault set and nothing else there, with the part state,
the epochs and the tables as the application at that mark left them (R56); a mark that leaves it CONFIGURING does nothing to
Port U (R55). The other items of that frame are those of the state in which the mark composes it, before or after what other
blocks do at the mark (R56; log entry 4). -/
def Obligations.RequestedLimit : Prop :=
  (∀ s : State,
    (s.requestedLimit = none ↔ ∀ k, s.board.limits.get k = none)
      ∧ (∀ v, s.requestedLimit = some v ↔
          (∃ k, s.board.limits.get k = some v) ∧ ∀ k w, s.board.limits.get k = some w → v ≤ w)
      ∧ s.chassisData.length = 16
      ∧ ((∀ k v, s.board.limits.get k = some v → v ≤ 1500) →
          u16 s.chassisData 8 = match s.requestedLimit with
            | none => 0xFFFF
            | some v => v))
    ∧ (∀ s : State,
        let at' := u8 s.chassisData
        let mode := fun r => match (s.steering.rear.get r).mode with
          | .centre => 0
          | .follow => 1
          | .locked => 2
        let damping := fun j => match (s.joints.records.get j).damping with
          | .soft => 0
          | .firm => 1
          | .full => 2
        let kneel := match s.kneel.state with
          | .ride => 0
          | .arming => 1
          | .lowering => 2
          | .knelt => 3
          | .paused => 4
          | .raising => 5
        let door := fun d => match (s.door d).state with
          | .unproven => 0
          | .locked => 1
          | .released => 2
          | .opening => 3
          | .open => 4
          | .closing => 5
          | .reversing => 6
          | .absent => 7
        (bit (at' 0) 0 = s.inRun ∧ bit (at' 0) 1 = decide (s.path.cycle.sync = .followingSync)
            ∧ bit (at' 0) 2 = s.board.haltLatch ∧ bit (at' 0) 3 = s.board.haltConfirmed
            ∧ (bit (at' 0) 4 = true ↔ ∃ d k, s.fitted d = true ∧ (s.door d).latch.has k = true)
            ∧ bit (at' 0) 5 = s.covered .a3 ∧ bit (at' 0) 6 = s.covered .a4 ∧ bit (at' 0) 7 = false)
          ∧ (at' 1 % 4 = mode .a3 ∧ at' 1 / 4 % 4 = mode .a4
              ∧ (bit (at' 1) 4 = true ↔ (s.joints.records.get .j1).envelope = .breach)
              ∧ (bit (at' 1) 5 = true ↔ (s.joints.records.get .j2).envelope = .breach)
              ∧ (bit (at' 1) 6 = true ↔ s.levels.ride = .high) ∧ bit (at' 1) 7 = false)
          ∧ (at' 2 % 4 = damping .j1 ∧ at' 2 / 4 % 4 = damping .j2 ∧ at' 2 / 16 = kneel)
          ∧ (at' 3 % 16 = door .d1 ∧ at' 3 / 16 = door .d2 ∧ at' 4 % 16 = door .d3 ∧ at' 4 / 16 = door .d4
              ∧ at' 5 = door .d5)
          ∧ (∀ d, bit (at' 6) (doorIndex d).val = s.board.haltSet.has (.door d)
              ∧ bit (at' 7) (doorIndex d).val = s.board.driveInhibit.has (.door d))
          ∧ (bit (at' 6) 5 = s.board.haltSet.has .kneel ∧ bit (at' 7) 5 = s.board.driveInhibit.has .kneel
              ∧ at' 6 < 64 ∧ at' 7 < 64)
          ∧ (let flags := u16 s.chassisData 10
            bit flags 0 = s.path.faults.bits.any id ∧ bit flags 1 = s.board.faults.egressDrop
              ∧ bit flags 2 = s.steering.faults.bits.any id ∧ bit flags 3 = s.joints.faults.bits.any id
              ∧ bit flags 4 = s.brakes.faults.bits.any id ∧ bit flags 5 = s.levels.faults.bits.any id
              ∧ bit flags 6 = s.kneel.faults.bits.any id ∧ bit flags 7 = s.doors.faults.bits.any id
              ∧ bit flags 8 = s.echoes.faults.bits.any id ∧ bit flags 9 = s.agent.faults.bits.any id ∧ flags < 1024)
          ∧ (let e := s.tables.epochs
            at' 12 % 16 = e.fit.toNat ∧ at' 12 / 16 = e.schedule.toNat ∧ at' 13 % 16 = e.axle.toNat
              ∧ at' 13 / 16 = e.corner.toNat ∧ at' 14 % 16 = e.door.toNat ∧ at' 14 / 16 = e.guard.toNat
              ∧ at' 15 = e.constants.toNat))
    ∧ (∀ s : State,
        let t := s.offerChassis
        s.Offered .u .ordinary (s.emitFrames [(.chassisState, s.chassisData)]) t s.board.faults.egressDrop
            t.board.faults.egressDrop
          ∧ t = { s with ports := t.ports, board := { s.board with faults := t.board.faults } })
    ∧ ∀ s : State,
        (s.path.cycle.timer ≠ none → s.path.cycle.sync = .freeRun → ∃ t : State, exec .cycleTimerExpiry s = .next t
            ∧ t.ports = (s.cycleMark false).ports ∧ t.board = (s.cycleMark false).board)
          ∧ s.syncArrival = s.cycleMark (decide (s.path.cycle.sync = .freeRun))
          ∧ ∀ syncFromFreeRun,
            let t := s.cycleMark syncFromFreeRun
            (t.inRun = false → t.ports.u = s.ports.u ∧ t.board.faults = s.board.faults)
              ∧ (t.inRun = true → ∃ composed : State, composed.tables = t.tables ∧
                  match s.ports.u.admission .ordinary (t.emitFrames [(.chassisState, composed.chassisData)]) with
                  | some y => t.ports.u = y ∧ t.board.faults = s.board.faults
                  | none => t.ports.u = s.ports.u ∧ t.board.faults.egressDrop = true)

/-- Every step keeps the interlocks sound: both reason sets hold the same members, KNEEL exactly while the kneel state is not
RIDE and DOOR_d exactly while door d is fitted and not LOCKED, or armed; the halt latch is SET while the halt set is
non-empty and while HALT_CONFIRMED is TRUE; a door is ABSENT exactly where it is not fitted (R42, R43, R45, R155, R165). -/
def Obligations.InterlocksStaySound : Prop :=
  ∀ s t : State, s.InterlocksSound → step s = .next t → t.InterlocksSound

/-- Every step keeps the speed-limit map in step with its owners, every limit held being the active CONSTANTS table's (R49,
R50, R52). -/
def Obligations.LimitsStaySound : Prop :=
  ∀ s t : State, s.LimitsSound → step s = .next t → t.LimitsSound

/-! ## Steering, joints, brakes -/

/-- Schedules (R67): the value at v is the truncated interpolation between the neighbouring points, lies between them, and is
the point itself at its speed; a missing SPEED reads at 800. -/
def Obligations.ScheduleReading : Prop :=
  (∀ (y : Schedule) (k : Fin 8) (f : Nat), f < 100 →
    let a : Int := (y[k.val] : Nat)
    let b : Int := (y[k.val + 1] : Nat)
    let v := scheduleAt y (100 * k + f)
    v = a + ((b - a) * f).tdiv 100 ∧ min a b ≤ v ∧ v ≤ max a b ∧ (f = 0 → v = a))
    ∧ (∀ y : Schedule, scheduleAt y 800 = (y[8] : Nat))
    ∧ (∀ s : State, (s.speed = none → s.scheduleSpeed = 800)
        ∧ ∀ v, s.speed = some v → (s.scheduleSpeed : Int) = max 0 (min 800 v))

/-- The steering unit's two triggers. At an ODOMETER trigger (R61 to R64, R66): backward motion, jitter and forward motion,
the marks laid, the broken track, and an axle in FOLLOW without coverage back to CENTRE. At a STEER trigger (R69 to R81), for
each rear axle: its mode, its demand from the path, the gain and the limit, the command within the rate of the last angle
command and within the limit or LOCK, its speed-limit kind, and the set of both commands; an ANGLE is within 4,551, within
LIM_A_i at the speed used and within R_i of the last angle command. -/
def Obligations.SteerCommands : Prop :=
  (∀ (s : State) (x : Cm), s.readSlot slotOdometer = some x →
    let t := s.odometerTrigger
    let heading := match s.readAngle slotHeading1, s.readAngle slotFrontAngle with
      | some h, some a => some (h + a)
      | _, _ => none
    let d := fun last => posDiff x last
    let e := posDiff x s.track.nextPos
    let n := e.toNat / s.pitch + 1
    let fresh : Track := match heading with
      | some h => { marks := [{ position := x, heading := h }], lastOdo := some x, nextPos := x + BitVec.ofNat 32 s.pitch }
      | none => { s.track with marks := [], lastOdo := some x }
    let broken := (∀ last, s.track.lastOdo = some last → 0 < d last) ∧ s.track.marks ≠ [] ∧ 0 ≤ e ∧ (8 < n ∨ heading = none)
    (∀ last, s.track.lastOdo = some last → d last < -2 → t.track = { marks := [], lastOdo := some x, nextPos := x })
      ∧ (∀ last, s.track.lastOdo = some last → -2 ≤ d last → d last ≤ 0 → t.track = s.track)
      ∧ ((∀ last, s.track.lastOdo = some last → 0 < d last) →
          (s.track.marks = [] → t.track = fresh)
            ∧ (s.track.marks ≠ [] → e < 0 → t.track = { s.track with lastOdo := some x })
            ∧ (∀ h, s.track.marks ≠ [] → s.track.marks.length ≤ 256 → 0 ≤ e → n ≤ 8 → heading = some h →
                let laid := s.track.marks ++ (List.range n).map fun k =>
                  { position := s.track.nextPos + BitVec.ofNat 32 (k * s.pitch), heading := h }
                t.track = { marks := laid.drop (laid.length - 256), lastOdo := some x
                            nextPos := s.track.nextPos + BitVec.ofNat 32 (n * s.pitch) })
            ∧ (broken → t.track = fresh))
      ∧ (t.steering.faults.trackBroken = true ↔ s.steering.faults.trackBroken = true ∨ broken)
      ∧ (∀ r, t.steering.rear.get r = { s.steering.rear.get r with
          mode := if (s.steering.rear.get r).mode = .follow ∧ t.covered r = false then .centre
                  else (s.steering.rear.get r).mode })
      ∧ t = { s with track := t.track, steering := { s.steering with
          rear := t.steering.rear
          faults := { s.steering.faults with trackBroken := t.steering.faults.trackBroken } } })
    ∧ (∀ s : State, s.readSlot slotOdometer = none → s.odometerTrigger = s)
    ∧ (∀ (s : State) (r : Rear), s.covered r = true ↔ ∃ odo m, s.track.lastOdo = some odo ∧ s.track.marks.head? = some m
        ∧ 2 ≤ s.track.marks.length ∧ 0 ≤ posDiff (s.lookupPos r odo) m.position
        ∧ posDiff (s.lookupPos r odo) m.position < (s.track.marks.length - 1 : Nat) * (s.pitch : Int))
    ∧ ∀ s : State,
        let t := s.steerTrigger
        let distrusted := fun r : Rear => s.disagrees (.steer r) = true ∨ s.readSlot slotHeading1 = none
          ∨ s.readSlot (slotJoint .j1) = none ∨ s.readSlot slotOdometer = none
          ∨ (r = .a4 ∧ s.readSlot (slotJoint .j2) = none)
        let forward := s.readInt slotDirection = some 0 ∨ s.readInt slotDirection = some 1
        let bound := fun r => min (s.readSchedule (limitSchedule r)) 4551
        let last := fun r => (s.steering.rear.get r).lastAngle
        let rate := fun r => ((s.axleParams (rearAxle r)).rate : Int)
        let value := fun r => clampInt (last r - rate r) (last r + rate r) (s.rearDemand r (s.modeStep r))
        let escapes := fun r => s.modeStep r ≠ .locked ∧ bound r < (value r).natAbs
        let command := fun r => if s.modeStep r = .locked ∨ escapes r then SteerCommand.lock else .angle (value r)
        let set := s.emitFrames [(.steer .a3, steerData (command .a3)), (.steer .a4, steerData (command .a4))]
        let admitted := (s.ports.d.admission .priority set).isSome
        (∀ r, (distrusted r → s.modeStep r = .locked)
          ∧ (¬distrusted r → (s.steering.rear.get r).mode = .locked →
              s.modeStep r = if s.stationary then .centre else .locked)
          ∧ (¬distrusted r → (s.steering.rear.get r).mode ≠ .locked →
              (s.covered r = true ∧ forward → s.modeStep r = .follow)
                ∧ (¬(s.covered r = true ∧ forward) → s.modeStep r = .centre)))
          ∧ (∀ r, s.rearDemand r .centre = 0
            ∧ s.rearDemand r .follow =
                clampInt (-bound r) (bound r) ((s.rawDemand r * s.readSchedule (gainSchedule r)).tdiv 1024))
          ∧ (∀ r odo m h j1 j2, s.track.lastOdo = some odo → s.track.marks.head? = some m →
              s.readAngle slotHeading1 = some h → s.readAngle (slotJoint .j1) = some j1 →
              (r = .a3 ∨ s.readAngle (slotJoint .j2) = some j2) →
              let place := (posDiff (odo - BitVec.ofNat 32 (s.axleParams (rearAxle r)).path) m.position).toNat
              let k := place / s.pitch
              ∀ a b, s.track.marks[k]? = some a → s.track.marks[k + 1]? = some b →
                s.rawDemand r =
                  wd (a.heading + BitVec.ofInt 16 ((wd b.heading a.heading * (place % s.pitch : Nat)).tdiv s.pitch))
                    (match r with
                      | .a3 => h - j1
                      | .a4 => h - j1 - j2))
          ∧ (∀ r x, command r = .angle x → -4551 ≤ x ∧ x ≤ 4551 ∧ -(s.readSchedule (limitSchedule r)) ≤ x
              ∧ x ≤ s.readSchedule (limitSchedule r) ∧ last r - rate r ≤ x ∧ x ≤ last r + rate r)
          ∧ (∀ r, (t.steering.rear.get r).mode = (if escapes r then .locked else s.modeStep r)
            ∧ t.board.limits.get (rearLimit r) =
                (if s.modeStep r = .locked ∨ escapes r then some (s.paramNat (rearLimit r).param)
                 else if (s.steering.rear.get r).mode = .locked then none else s.board.limits.get (rearLimit r)))
          ∧ (t.steering.faults.limitEscape = true ↔ s.steering.faults.limitEscape = true ∨ ∃ r, escapes r)
          ∧ s.Offered .d .priority set t s.steering.faults.egressDrop t.steering.faults.egressDrop
          ∧ (∀ r, (t.steering.rear.get r).lastAngle = if admitted then commandAngle (command r) else last r)
          ∧ t.echoes = (if admitted then ((s.echoEmission (.steer .a3) (commandAngle (command .a3))).echoEmission
              (.steer .a4) (commandAngle (command .a4))).echoes else s.echoes)
          ∧ t = { s with ports := t.ports, echoes := t.echoes
                         board := { s.board with limits := t.board.limits }
                         steering := { s.steering with rear := t.steering.rear, faults := t.steering.faults } }

/-- Every step keeps the last angle commands and the limiter's record within ±4,551 bau (R68, R83). -/
def Obligations.AnglesStaySound : Prop :=
  ∀ s t : State, s.AnglesSound → step s = .next t → t.AnglesSound

/-- Every step keeps the track memory sound: at most 256 marks, one pitch from each to the next, the next one due a pitch
beyond the newest (R60, R63, R65). The table store is premised sound: in RUN a CONSTANTS table is active. -/
def Obligations.TrackStaysSound : Prop :=
  ∀ s t : State, s.trackSound → s.tables.Sound → step s = .next t → t.trackSound

/-- The joints at a STEER trigger (R89 to R94): envelope states with hysteresis, damping levels, speed-limit kinds, breach
faults, the stretch demand record, and the output set of both damping levels offered to the Port D ordinary queue, with
EGRESS_DROP where it is refused. -/
def Obligations.JointJudgement : Prop :=
  ∀ s : State,
    let t := s.jointTrigger
    let after := fun j => (t.joints.records.get j).envelope
    (∀ j a, s.readAngle (slotJoint j) = some a →
      ((s.joints.records.get j).envelope = .inside →
        (after j = .breach ↔ s.readSchedule (envelopeSchedule j) < (a.toInt.natAbs : Int)))
        ∧ ((s.joints.records.get j).envelope = .breach →
          (after j = .inside ↔ (a.toInt.natAbs : Int) ≤ s.readSchedule (envelopeSchedule j) - s.param .jointHyst)))
      ∧ (∀ j, s.readAngle (slotJoint j) = none → after j = (s.joints.records.get j).envelope)
      ∧ (∀ j, (t.joints.records.get j).damping =
          if s.readAngle (slotJoint j) = none ∨ after j = .breach then .full
          else if s.speedBelow (s.param .dampFirmSpeed) then .soft else .firm)
      ∧ (∀ j, t.board.limits.get (jointLimit j) =
          if after j = .breach then some (s.paramNat (jointLimit j).param) else none)
      ∧ t.joints.faults.breachJ1 = (s.joints.faults.breachJ1
          || decide ((s.joints.records.get .j1).envelope = .inside ∧ after .j1 = .breach))
      ∧ t.joints.faults.breachJ2 = (s.joints.faults.breachJ2
          || decide ((s.joints.records.get .j2).envelope = .inside ∧ after .j2 = .breach))
      ∧ t.board.stretch =
          { a1 := 0, a2 := 0
            a3 := if after .j1 = .breach then s.paramNat .stretchJ1 else 0
            a4 := max (if after .j1 = .breach then s.paramNat .stretchJ1 else 0)
                      (if after .j2 = .breach then s.paramNat .stretchJ2 else 0) }
      ∧ (let level := fun j : Joint => match (t.joints.records.get j).damping with
          | .soft => [0]
          | .firm => [1]
          | .full => [2]
        s.Offered .d .ordinary (s.emitFrames [(.damp .j1, level .j1), (.damp .j2, level .j2)]) t
          s.joints.faults.egressDrop t.joints.faults.egressDrop)
      ∧ t = { s with ports := t.ports, joints := t.joints, board := t.board }

/-- The brake distributor's computations. The load of each axle, its pressure, and that the pressure is at most PMAX and at
least the smaller of HOLD_PRESSURE and PMAX while halt is active (R99, R103). A BRAKE trigger computes with BRAKE_DEMAND where it
counts as VALID and else with STALE_DECEL (R102); a mark in RUN computes with STALE_DECEL while the demand is missing and does
nothing while it counts as VALID (R106). A computation with STALE_DECEL latches DEMAND_STALE where the slot is STALE, or VALID and
out of range, and not where it is NEVER (R107). Each computation writes the load sources, latches LOAD_FALLBACK for a FALLBACK
load (R99), posts or withdraws BRAKE (R109), and offers the set of four pressures to the Port D priority queue, with EGRESS_DROP
where it is refused (R104, R105). -/
def Obligations.BrakePressures : Prop :=
  (∀ (s : State) (a : Axle) (load demand : Nat),
    let p := s.axleParams a
    (s.axlePressure a load demand =
      min p.pmax (s.board.stretch.get a
        + max (load * demand * p.bg / 65536) (if s.haltActive then s.paramNat .holdPressure else 0)))
      ∧ s.axlePressure a load demand ≤ p.pmax
      ∧ (s.haltActive = true → min (s.paramNat .holdPressure) p.pmax ≤ s.axlePressure a load demand)
      ∧ (∀ snap, s.brakes.snapshot = some snap → s.axleLoad a = (snap.loads.get a, .snapshot))
      ∧ (∀ l r, s.brakes.snapshot = none → s.readInt (slotPressure (leftCorner a)) = some l →
          s.readInt (slotPressure (rightCorner a)) = some r →
          s.axleLoad a = (min 4000 (p.base + (l + r).toNat * p.k / 256), .pressures))
      ∧ (s.brakes.snapshot = none →
          (s.readInt (slotPressure (leftCorner a)) = none ∨ s.readInt (slotPressure (rightCorner a)) = none) →
          s.axleLoad a = (p.fallback, .fallback)))
    ∧ ∀ s : State,
        let slot := s.slots[slotBrakeDemand]
        let unusable := decide (slot.validity = .stale)
          || decide (slot.validity = .valid ∧ (slot.value.toInt < 0 ∨ 1000 < slot.value.toInt))
        let usable := slot.validity = .valid ∧ 0 ≤ slot.value.toInt ∧ slot.value.toInt ≤ 1000
        s.markAction .brakes = s.brakeMark
          ∧ (usable → s.Computed slot.value.toNat false s.brakeTrigger ∧ s.brakeMark = s)
          ∧ (¬usable → s.Computed (s.paramNat .staleDecel) unusable s.brakeTrigger ∧ s.brakeMark = s.brakeTrigger)

/-- HALT_CONFIRMED at a recomputation (R108, R111): TRUE exactly where halt is active, at most one axle is in DISAGREE and the
echo of every other axle counts as VALID and is at least HOLD_PRESSURE less HALT_TOL. -/
def Obligations.HaltConfirmed : Prop :=
  ∀ s : State,
    (s.recomputeHalt.board.haltConfirmed = true ↔
      ((∃ m, s.board.haltSet.has m = true) ∨ s.board.haltLatch = true)
        ∧ (∀ a b, s.disagrees (.brake a) = true → s.disagrees (.brake b) = true → a = b)
        ∧ ∀ a, s.disagrees (.brake a) = false →
            ∃ v, s.readInt (slotBrakeEcho a) = some v ∧ s.param .holdPressure - s.param .haltTol ≤ v)
      ∧ s.recomputeHalt = { s with board := { s.board with
          haltConfirmed := s.recomputeHalt.board.haltConfirmed, limits := s.recomputeHalt.board.limits } }
      ∧ ((∃ a, s.disagrees (.brake a) = true) →
          s.recomputeHalt.board.limits.brake = some (s.paramNat .limitBrake))
      ∧ ((∀ a, s.disagrees (.brake a) = false) → s.recomputeHalt.board.limits.brake = none)

/-! ## Levelling, kneeling, doors -/

/-- Mode and command of a corner from its error (R122, R123), and a LEVEL_AXLE trigger as a whole (R117 to R126, R130): the
return check first; then for each corner of the axle its sample or FAULT, its average over the effective window, its error
from its target, suspension and pairing, its mode, its in-band flag from its own error, its timer and slow flag; LEVEL_SLOW
withdrawn with the last slow corner; and one valve frame of both commands offered. The other corners keep their records. -/
def Obligations.CornerCommands : Prop :=
  (∀ (p : CornerParams) (rapid : Bool) (e : Int), p.tb ≤ p.db →
    let pulse := min p.maxPulse ((e.natAbs - p.damping) * p.gain)
    let timed : ValveCommand := if pulse = 0 then .hold else if e < 0 then .fill pulse else .exhaust pulse
    (e.natAbs ≤ p.tb → settleMode p rapid e = (.idle, .hold))
      ∧ (p.tb < e.natAbs → e.natAbs ≤ p.db → settleMode p rapid e = (.delta, timed))
      ∧ (p.db < e.natAbs → rapid = false → settleMode p rapid e = (.delta, timed))
      ∧ (p.db < e.natAbs → rapid = true →
          (e < 0 → settleMode p rapid e = (.rapid, .fillContinuous))
            ∧ (0 < e → settleMode p rapid e = (.rapid, .exhaustContinuous))))
    ∧ (∀ s : State, (s.driveMode = false ↔ ∃ v, s.speed = some v ∧ v < s.param .driveModeSpeed)
        ∧ (s.suspendedNow = true ↔ (∃ v, s.readInt slotBrakeDemand = some v ∧ s.param .levelSuspendDecel ≤ v)
            ∨ (∃ x, s.readAngle slotFrontAngle = some x ∧ s.param .levelSuspendAngle ≤ x.toInt.natAbs)
            ∨ (s.joints.records.get .j1).envelope = .breach ∨ (s.joints.records.get .j2).envelope = .breach))
    ∧ ∀ (s : State) (a : Axle),
        let u := s.returnCheck
        let t := s.levelTrigger a
        let l := leftCorner a
        let r := rightCorner a
        let before := fun c => u.levels.corners.get c
        let p := s.cornerParams
        let height := fun c => s.readInt (slotHeight c)
        let ring := fun c => match height c with
          | some h => (if 16 ≤ (before c).ring.length then (before c).ring.drop 1 else (before c).ring) ++ [h]
          | none => []
        let average := fun c =>
          let m := min (if s.driveMode then 16 else (p c).window) (ring c).length
          ((ring c).drop ((ring c).length - m)).sum.tdiv m
        let target : Corner → Int := fun c => match (before c).target with
          | .rideLevel => if u.levels.ride = .normal then (p c).normal else (p c).high
          | .kneel => (p c).kneel
          | .frozen h => h
        let error := fun c => average c - target c
        let paired := (p l).pair = true ∧ height l ≠ none ∧ height r ≠ none ∧ s.suspendedNow = false
          ∧ ¬(((p l).kerb = true ∨ (p r).kerb = true) ∧ s.kneel.state ≠ .ride)
        let outcome := fun c =>
          if height c = none then (.fault, .hold)
          else if s.suspendedNow then (.suspended, .hold)
          else if paired then
            settleMode (p l) (!s.driveMode && (p l).rapid) ((error l + error r).tdiv 2)
          else settleMode (p c) (!s.driveMode && (p c).rapid) (error c)
        let correcting := fun m : CornerMode => m = .delta ∨ m = .rapid
        (∀ c, cornerAxle c = a → t.levels.corners.get c = { before c with
            ring := ring c
            average := if height c = none then none else some (average c)
            inBand := decide (height c ≠ none ∧ (error c).natAbs ≤ (p c).tb)
            mode := (outcome c).1
            slow := decide ((before c).slow = true ∧ correcting (outcome c).1)
            activeSince := if correcting (outcome c).1 then
                (if correcting (before c).mode then (before c).activeSince else some (s.paramNat .levelDeadline))
              else none })
          ∧ (∀ c, cornerAxle c ≠ a → t.levels.corners.get c = before c)
          ∧ t.levels.ride = u.levels.ride
          ∧ (t.levels.faults.heightStale = true ↔ s.levels.faults.heightStale = true
              ∨ ∃ c, cornerAxle c = a ∧ height c = none ∧ s.slots[slotHeight c].validity ≠ .never)
          ∧ t.levels.faults.levelSlow = s.levels.faults.levelSlow
          ∧ s.Offered .d .ordinary (s.emitFrames [(.valve a, valveBytes (outcome l).2 ++ valveBytes (outcome r).2)]) t
              s.levels.faults.egressDrop t.levels.faults.egressDrop
          ∧ t.board = (if t.anySlow then u.board else
              { u.board with limits := { u.board.limits with levelSlow := none } })
          ∧ t = { s with ports := t.ports, levels := t.levels, board := t.board }

/-- Slow levelling, lost heights and the ride level (R127, R130 to R132). The expiry of a corner's slow-levelling timer: the
slow flag TRUE, the timer idle, LEVEL_SLOW latched and posted; for an idle timer the command does nothing (the model's
choice, log entry 3). A loss notice: the corner in FAULT with nothing kept, HEIGHT_STALE where its slot is STALE, LEVEL_SLOW
withdrawn with the last slow corner, and HOLD for the axle in RUN (at every notice in RUN: the model's choice, log entry
30). The ride level: the return check, the LEVEL_HIGH gate, the LEVEL_REQUEST notice, and what a change of level does. -/
def Obligations.ActiveSinceExpiry : Prop :=
  (∀ (c : Corner) (s : State),
    ((s.levels.corners.get c).activeSince = none → exec (.activeSinceExpiry c) s = .next s)
      ∧ ((s.levels.corners.get c).activeSince ≠ none →
          exec (.activeSinceExpiry c) s = .next { s with
            levels := { s.levels with
              corners := s.levels.corners.set c { s.levels.corners.get c with slow := true, activeSince := none }
              faults := { s.levels.faults with levelSlow := true } }
            board := { s.board with limits := { s.board.limits with levelSlow := some (s.paramNat .limitLevelSlow) } } }))
    ∧ (∀ (c : Corner) (s : State),
        let t := s.heightLoss c
        let hold := s.emitFrames [(.valve (cornerAxle c), valveBytes .hold ++ valveBytes .hold)]
        t.levels.corners.get c = { s.levels.corners.get c with
            ring := [], average := none, inBand := false, mode := .fault, slow := false, activeSince := none }
          ∧ (∀ c', c' ≠ c → t.levels.corners.get c' = s.levels.corners.get c')
          ∧ t.levels.faults = { s.levels.faults with
              heightStale := s.levels.faults.heightStale || decide (s.slots[slotHeight c].validity = .stale)
              egressDrop := t.levels.faults.egressDrop }
          ∧ t.board = (if t.anySlow then s.board else
              { s.board with limits := { s.board.limits with levelSlow := none } })
          ∧ (s.inRun = true →
              s.Offered .d .ordinary hold t s.levels.faults.egressDrop t.levels.faults.egressDrop)
          ∧ (s.inRun = false → t.ports = s.ports ∧ t.levels.faults.egressDrop = s.levels.faults.egressDrop)
          ∧ t = { s with ports := t.ports, board := t.board, levels := { s.levels with
              corners := t.levels.corners, faults := t.levels.faults } })
    ∧ (∀ s : State,
        let follows := fun c => (s.levels.corners.get c).target = .rideLevel
        let changed := fun (t : State) (ride : RideLevel) (high : Option Nat) =>
          (∀ c, t.levels.corners.get c = if follows c then
              { s.levels.corners.get c with
                ring := [], average := none, inBand := false, slow := false
                activeSince := if (s.levels.corners.get c).mode = .delta ∨ (s.levels.corners.get c).mode = .rapid then
                    some (s.paramNat .levelDeadline)
                  else (s.levels.corners.get c).activeSince }
            else s.levels.corners.get c)
          ∧ t = { s with
              levels := { s.levels with corners := t.levels.corners, ride := ride }
              board := { s.board with limits := { s.board.limits with
                levelHigh := high
                levelSlow := if t.anySlow then s.board.limits.levelSlow else none } } }
        let returns := ∃ v, s.speed = some v ∧ s.param .highLevelReturn ≤ v
        let u := s.returnCheck
        (s.levels.ride = .normal → s.rideNormal = s)
          ∧ (s.levels.ride = .high → changed s.rideNormal .normal none)
          ∧ changed s.rideHigh .high (some (s.paramNat .limitLevelHigh))
          ∧ (returns → u = s.rideNormal) ∧ (¬returns → u = s)
          ∧ (s.levelHighOpen = true ↔ s.kneel.state = .ride ∧ (∃ v, s.speed = some v ∧ v < s.param .highLevelMax)
              ∧ ∀ r ∈ s.guardRules, r.enabled = true → r.gate = .levelHigh → s.ruleTrue r = true)
          ∧ (s.readInt slotLevelRequest = none → s.levelRequestNotice = u)
          ∧ (s.readInt slotLevelRequest = some 0 → s.levelRequestNotice = u.rideNormal)
          ∧ (s.readInt slotLevelRequest = some 1 → s.levelRequestNotice =
              if u.levels.ride = .normal ∧ s.levelHighOpen = true then u.rideHigh else u))

/-- Every step keeps the corner records sound: at most 16 samples, no average and no band without one, and a correcting corner
either runs its slow-levelling timer or is slow, any other neither (R115, R128, R130). -/
def Obligations.LevelsStaySound : Prop :=
  ∀ s t : State, s.levelsSound → step s = .next t → t.levelsSound

/-- The kneel sequencer (R129, R136 to R147). Its timers: the arm timer takes ARMING to RIDE with ARM_TIMEOUT; the deadline
takes LOWERING to PAUSED with KNEEL_TIMEOUT, every kerb corner frozen, and RAISING to RIDE with RAISE_TIMEOUT and KNEEL_FAULT
posted; for an idle timer the command does nothing (the model's choice, log entry 3). The conditions that it reads; the
transition that a re-evaluation takes from each state, its events, the release notice and the request at a CORNER
application; what it does at each entry (that KNEEL joins sets that hold other members is the model's
reading, log entry 33); and what a kerb target request does to the corners. -/
def Obligations.KneelTimers : Prop :=
  (∀ s : State,
    (s.kneel.armTimer = none → exec .kneelArmTimerExpiry s = .next s)
      ∧ (s.kneel.deadline = none → exec .kneelDeadlineExpiry s = .next s)
      ∧ (s.kneel.armTimer ≠ none → s.kneel.state = .arming →
          exec .kneelArmTimerExpiry s = .next { s with
            kneel := { s.kneel with state := .ride, armTimer := none, deadline := none
                                    faults := { s.kneel.faults with armTimeout := true } }
            board := { s.board with haltSet := { s.board.haltSet with kneel := false }
                                    driveInhibit := { s.board.driveInhibit with kneel := false } }
            brakes := { s.brakes with snapshot := none } })
      ∧ (s.kneel.deadline ≠ none → s.kneel.state = .raising →
          exec .kneelDeadlineExpiry s = .next { s with
            kneel := { s.kneel with state := .ride, armTimer := none, deadline := none, faultPosted := true
                                    faults := { s.kneel.faults with raiseTimeout := true } }
            board := { s.board with haltSet := { s.board.haltSet with kneel := false }
                                    driveInhibit := { s.board.driveInhibit with kneel := false }
                                    limits := { s.board.limits with
                                      kneelFault := some (s.paramNat .limitKneelFault) } }
            brakes := { s.brakes with snapshot := none } })
      ∧ (s.kneel.deadline ≠ none → s.kneel.state = .lowering →
          ∃ t : State, exec .kneelDeadlineExpiry s = .next t
            ∧ t.kneel = { s.kneel with state := .paused, deadline := none
                                       faults := { s.kneel.faults with kneelTimeout := true } }
            ∧ (∀ c, (s.cornerParams c).kerb = true →
                (t.levels.corners.get c).target = .frozen (s.frozenHeight c))
            ∧ (∀ c, (s.cornerParams c).kerb = false → t.levels.corners.get c = s.levels.corners.get c)
            ∧ t = { s with kneel := t.kneel, levels := t.levels, board := t.board }))
    ∧ (∀ s : State,
        let kerb := fun c => (s.cornerParams c).kerb = true
        let rules := fun g => ∀ r ∈ s.guardRules, r.enabled = true → r.gate = g → s.ruleTrue r = true
        (s.allInBand = true ↔ ∀ c, kerb c → (s.levels.corners.get c).inBand = true)
          ∧ (s.kerbFault = true ↔ ∃ c, kerb c ∧ (s.levels.corners.get c).mode = .fault)
          ∧ (s.mayArm = true ↔ (∃ c, kerb c) ∧ ∃ v, s.speed = some v ∧ v < s.param .vDoor)
          ∧ (s.kneelLowerOpen = true ↔ (∃ v, s.speed = some v ∧ v < s.param .vKneel) ∧ s.board.haltConfirmed = true
              ∧ s.kerbFault = false ∧ rules .kneelLower)
          ∧ (∀ ask, s.raiseNow ask = true ↔ s.inRun = true ∧ rules .kneelRaise ∧ (ask = .raise
              ∨ ((s.param .automation = 2 ∨ s.param .automation = 3)
                  ∧ (∀ d, s.fitted d = true → (s.door d).state = .locked ∧ (s.door d).armed = false)
                  ∧ ∃ v, s.readInt slotTractionDemand = some v ∧ s.param .haltReleaseDemand ≤ v))))
    ∧ (∀ (s : State) (ask : KneelAsk),
        let t := s.kneelReevaluate ask
        let clear := s.readInt slotKneelGuard = some 0
        (s.kneel.state = .ride →
            let u := if s.kneel.faultPosted = true ∧ s.allInBand = true then { s with
                kneel := { s.kneel with faultPosted := false }
                board := { s.board with limits := { s.board.limits with kneelFault := none } } } else s
            t = if ask = .kneel ∧ s.mayArm = true then u.enterArming else u)
          ∧ (s.kneel.state = .arming →
              t = if ask = .raise then s.enterRide false else if s.kneelLowerOpen then s.enterLowering else s)
          ∧ (s.kneel.state = .lowering →
              t = if s.raiseNow ask then s.enterRaising
                else if ¬clear ∨ s.kerbFault = true then s.enterPaused
                else if s.allInBand then s.enterKnelt else s)
          ∧ (s.kneel.state = .knelt → t = if s.raiseNow ask then s.enterRaising else s)
          ∧ (s.kneel.state = .paused →
              t = if s.raiseNow ask then s.enterRaising
                else if ask = .kneel ∧ clear ∧ s.kneelLowerOpen = true then s.enterLowering else s)
          ∧ (s.kneel.state = .raising →
              t = if ask = .kneel ∧ s.kneelLowerOpen = true then s.enterLowering
                else if s.allInBand then s.enterRide true else s))
    ∧ (∀ s : State,
        let switch := s.readInt slotKneelSwitch
        (switch = some 1 → s.kneelTrigger = s.kneelReevaluate .kneel)
          ∧ (switch = some 2 → s.kneelTrigger = s.kneelReevaluate .raise)
          ∧ (switch ≠ some 1 → switch ≠ some 2 → s.kneelTrigger = s.kneelReevaluate .nothing)
          ∧ s.kneelLevelTrigger = s.kneelReevaluate .nothing
          ∧ s.kneelMark false = s.kneelReevaluate .nothing
          ∧ s.kneelMark true = ({ s with kneel := { s.kneel with
              deadline := some (s.paramNat .kneelDeadline) } }).kneelReevaluate .nothing
          ∧ s.releaseNotice = (if s.kneel.state = .ride ∧ (s.param .automation = 1 ∨ s.param .automation = 3)
              ∧ s.mayArm = true then s.enterArming else s)
          ∧ (s.kneel.state = .lowering ∨ s.kneel.state = .knelt → s.kneelCornerApplied = s.kerbRequest .setKneel)
          ∧ (s.kneel.state = .paused → s.kneelCornerApplied = s.kerbRequest .freeze)
          ∧ (s.kneel.state = .arming ∨ s.kneel.state = .raising ∨ s.kneel.state = .ride →
              s.kneelCornerApplied = s.kerbRequest .returnToRide))
    ∧ (∀ s : State,
        let deadline := s.paramNat .kneelDeadline
        let held := fun b => { s.board with
          haltSet := { s.board.haltSet with kneel := b }, driveInhibit := { s.board.driveInhibit with kneel := b } }
        s.enterArming = { s with
            kneel := { s.kneel with state := .arming, armTimer := some (s.paramNat .kneelArmTimeout) }
            board := { held true with
              haltLatch := s.board.haltLatch || s.board.haltSet.isEmpty, limits := s.rideNormal.board.limits }
            levels := s.rideNormal.levels }
          ∧ s.enterLowering = { s with
              kneel := { s.kneel with state := .lowering, armTimer := none, deadline := some deadline }
              levels := (s.kerbRequest .setKneel).levels, board := (s.kerbRequest .setKneel).board
              brakes := s.enterLowering.brakes }
          ∧ (s.brakes.snapshot ≠ none → s.enterLowering.brakes = s.brakes)
          ∧ (s.brakes.snapshot = none →
              let fell := [Axle.a1, .a2, .a3, .a4].any fun a => decide ((s.freshLoad a).2 = .fallback)
              (∀ a, s.enterLowering.brakes.sources.get a = (s.freshLoad a).2)
                ∧ (∃ x, s.enterLowering.brakes.snapshot = some x ∧ x.anyFallback = fell
                    ∧ ∀ a, x.loads.get a = (s.freshLoad a).1)
                ∧ s.enterLowering.brakes.faults = { s.brakes.faults with
                    loadFallback := s.brakes.faults.loadFallback || fell })
          ∧ s.enterKnelt = { s with kneel := { s.kneel with state := .knelt, deadline := none } }
          ∧ s.enterPaused = { s with
              kneel := { s.kneel with state := .paused, deadline := none }
              levels := (s.kerbRequest .freeze).levels, board := (s.kerbRequest .freeze).board }
          ∧ s.enterRaising = { s with
              kneel := { s.kneel with state := .raising, deadline := some deadline }
              levels := (s.kerbRequest .returnToRide).levels, board := (s.kerbRequest .returnToRide).board }
          ∧ ∀ inBand, s.enterRide inBand = { s with
              kneel := { s.kneel with state := .ride, armTimer := none, deadline := none
                                      faultPosted := s.kneel.faultPosted && !inBand }
              board := { held false with limits := { s.board.limits with
                kneelFault := if inBand && s.kneel.faultPosted then none else s.board.limits.kneelFault } }
              brakes := { s.brakes with snapshot := none } })
    ∧ ∀ (s : State) (q : KerbRequest) (c : Corner),
        let t := s.kerbRequest q
        let p := s.cornerParams c
        let r := s.levels.corners.get c
        let stands := match r.average, s.readInt (slotHeight c) with
          | some x, _ => x
          | none, some x => x
          | none, none => if s.levels.ride = .normal then p.normal else p.high
        let wanted : TargetSource := match q with
          | .setKneel => .kneel
          | .freeze => .frozen (if stands < p.min then p.min else if p.max < stands then p.max else stands)
          | .returnToRide => .rideLevel
        t.levels.corners.get c = (if p.kerb = true ∧ r.target ≠ wanted then
            { r with ring := [], average := none, inBand := false, slow := false, target := wanted
                     activeSince := if r.mode = .delta ∨ r.mode = .rapid then some (s.paramNat .levelDeadline)
                                    else r.activeSince }
          else r)
          ∧ t.board = (if t.anySlow then s.board else
              { s.board with limits := { s.board.limits with levelSlow := none } })
          ∧ t = { s with levels := { s.levels with corners := t.levels.corners }, board := t.board }

/-- Every step keeps the kneel sequencer sound: its arm timer runs exactly in ARMING, in RUN its deadline exactly in LOWERING
and RAISING, it stands in RAISING before RUN, and the load snapshot is there from LOWERING to PAUSED and gone in RIDE (R100,
R101, R135, R136). -/
def Obligations.KneelStaysSound : Prop :=
  ∀ s t : State, s.KneelSound → step s = .next t → t.KneelSound

/-- A door's requests, the loss of its position, and its timers (R155, R156, R158 to R163). The arm timer disarms an armed door
with ARM_TIMEOUT; the lock-proof timer takes CLOSING to UNPROVEN with LOCK_NOT_PROVEN and HOLD; the release-hold timer takes
RELEASED to CLOSING with CLOSE. A request arms or disarms a LOCKED door without a frame, and otherwise moves the door as the
table of requests gathers it, with the command of the state entered; one that moves nothing changes nothing. A lost position
leaves the door UNPROVEN with HOLD. For an idle timer the expiry does nothing (the model's choice, log entry 3). -/
def Obligations.DoorTimers : Prop :=
  (∀ (d : Door) (s : State), (s.door d).Sound →
    ((s.door d).armTimer = none → exec (.doorArmTimerExpiry d) s = .next s)
      ∧ ((s.door d).lockProof = none → exec (.lockProofExpiry d) s = .next s)
      ∧ ((s.door d).releaseHold = none → exec (.releaseHoldExpiry d) s = .next s)
      ∧ ((s.door d).armTimer ≠ none →
          exec (.doorArmTimerExpiry d) s = .next { s with
            doors := { s.doors with
              records := s.doors.records.set d { s.door d with armed := false, armTimer := none }
              faults := { s.doors.faults with armTimeout := true } }
            board := { s.board with
              haltSet := { s.board.haltSet with doors := s.board.haltSet.doors.set d false }
              driveInhibit := { s.board.driveInhibit with doors := s.board.driveInhibit.doors.set d false } } })
      ∧ ((s.door d).lockProof ≠ none →
          ∃ t : State, exec (.lockProofExpiry d) s = .next t
            ∧ (t.door d).state = .unproven ∧ (t.door d).lockProof = none
            ∧ (t.door d).latch = (if (s.doorParams d).mask.lockNotProven then
                { (s.door d).latch with lockNotProven := true } else (s.door d).latch)
            ∧ ((t.door d).lastCommand = some .hold
                ∨ (t.doors.faults.egressDrop = true ∧ (t.door d).lastCommand = (s.door d).lastCommand))
            ∧ t.board.haltSet.doors.get d = true ∧ (∀ d', d' ≠ d → t.door d' = s.door d')
            ∧ t = { s with doors := t.doors, board := t.board, ports := t.ports })
      ∧ ((s.door d).releaseHold ≠ none →
          ∃ t : State, exec (.releaseHoldExpiry d) s = .next t
            ∧ (t.door d).state = .closing ∧ (t.door d).releaseHold = none
            ∧ (((t.door d).lastCommand = some .close ∧ (t.door d).lockProof = some (s.doorParams d).lockProof)
                ∨ (t.doors.faults.egressDrop = true ∧ (t.door d).lastCommand = (s.door d).lastCommand
                    ∧ (t.door d).lockProof = none))
            ∧ t.board.haltSet.doors.get d = true ∧ (∀ d', d' ≠ d → t.door d' = s.door d')
            ∧ t = { s with doors := t.doors, board := t.board, ports := t.ports }))
    ∧ (∀ (d : Door) (s : State), (s.door d).Sound →
        let r := s.door d
        let p := s.doorParams d
        let t := s.doorRequest d
        let asked := s.readInt (slotDoorRequest d)
        let moved : Option (DoorState × DoorCommand) :=
          if asked = some 3 ∧ (r.state = .unproven ∨ r.state = .released ∨ r.state = .opening ∨ r.state = .open
              ∨ r.state = .reversing) then some (.closing, .close)
          else if asked = some 2 ∧ (r.state = .released ∨ r.state = .closing) ∧ s.doorGateOpen = true then
            some (.opening, .open)
          else none
        ((asked ≠ some 1 ∧ asked ≠ some 2 ∧ asked ≠ some 3) ∨ r.state = .absent → t = s)
          ∧ (r.state = .locked → asked = some 1 ∨ asked = some 2 →
              t = (if r.armed then s else s.setDoor d { r with
                armed := true, armTimer := some (s.paramNat .doorArmTimeout) }).postReason (.door d))
          ∧ (r.state = .locked → asked = some 3 →
              t = (s.setDoor d { r with armed := false, armTimer := none }).withdrawReason (.door d))
          ∧ (r.state ≠ .locked → moved = none → t = s)
          ∧ ∀ after command, moved = some (after, command) →
              t = { s.postReason (.door d) with ports := t.ports, doors := t.doors }
                ∧ s.Sends d command t
                ∧ t.door d = { r with
                    state := after, releaseHold := none, lastCommand := (t.door d).lastCommand
                    lockProof := if after = .closing ∧ s.takesDoor d command = true then some p.lockProof else none }
                ∧ (∀ d', d' ≠ d → t.door d' = s.door d')
                ∧ t.doors.faults = { s.doors.faults with egressDrop := t.doors.faults.egressDrop })
    ∧ ∀ (d : Door) (s : State) (fitApplied : Bool),
        let r := s.door d
        let t := s.losePosition d fitApplied
        let lost := s.slots[slotDoorPosition d].validity = .stale
          ∨ (s.slots[slotDoorPosition d].validity = .valid ∧ s.readInt (slotDoorPosition d) = none)
        (r.state = .absent → t = s)
          ∧ (r.state ≠ .absent →
              t = { s.postReason (.door d) with ports := t.ports, doors := t.doors }
                ∧ s.Sends d .hold t
                ∧ t.door d = { r with
                    state := .unproven, armed := false, armTimer := none, lockProof := none, releaseHold := none
                    candidate := none, settled := none, debounce := 0, lastCommand := (t.door d).lastCommand
                    latch := if r.state = .locked ∧ fitApplied = false ∧ (s.doorParams d).mask.lockLost = true then
                        { r.latch with lockLost := true } else r.latch }
                ∧ (∀ d', d' ≠ d → t.door d' = s.door d')
                ∧ (t.doors.faults.signalLost = true ↔ s.doors.faults.signalLost = true ∨ (lost ∧ fitApplied = false))
                ∧ t.doors.faults = { s.doors.faults with
                    signalLost := t.doors.faults.signalLost, egressDrop := t.doors.faults.egressDrop })

/-- A DOOR d trigger (R151 to R160, R162, R163), and every command offered to a door drive (R154, R156). At a trigger of a
fitted door whose position counts as VALID: debouncing, the settled event, the edge, the one transition taken, the command
from the state and the gate, what is latched, the timers, and the members kept in step; a missing position is lost instead.
UNLOCK and OPEN are offered, again or for the first time, only with the DOOR_RELEASE gate open, but for the OPEN on entry to
REVERSING, at triggers and at requests; no other event offers them, and no command but an accepted arrival of a door trigger
or a door request brings a frame with one of them into Port D's priority queue. -/
def Obligations.DoorCommandsGated : Prop :=
  (∀ (d : Door) (s : State) (v : Int), (s.door d).Sound → (s.door d).state ≠ .absent →
      s.readInt (slotDoorPosition d) = some v →
      let r := s.door d
      let p := s.doorParams d
      let t := s.doorTrigger d
      let gate := s.doorGateOpen
      let position := positionOf v
      let count := if r.candidate = some position then min (r.debounce + 1) p.debounce else 1
      let event := decide (p.debounce ≤ count ∧ r.settled ≠ some position)
      let settled := if event then some position else r.settled
      let sample := (s.readInt (slotDoorEdge d)).map fun x => decide (x = 1)
      let obstruction : Bool := match sample, p.edge with
        | none, _ => decide (r.state = .closing)
        | some x, .rise => decide (r.lastEdge = some false) && x
        | some x, .fall => decide (r.lastEdge = some true) && !x
        | some x, .both => decide (r.lastEdge = some (!x))
        | some x, .level => x
      let settles : Bool := event && match position with
        | .fault => true
        | .closedLocked => decide (r.state ≠ .locked)
        | .fullOpen => decide (r.state ≠ .open)
        | .closedUnlocked => decide (r.state = .locked)
        | .moving => decide (r.state = .locked)
      let struck := decide (r.state = .closing) && !settles && obstruction
      let after : DoorState :=
        if settles then
          (match position with
            | .closedLocked => .locked
            | .fullOpen => if r.state = .locked then .unproven else .open
            | .closedUnlocked => .unproven
            | .moving => .unproven
            | .fault => .unproven)
        else
          (match r.state with
            | .locked => if r.armed ∧ gate ∧ event = false then .released else .locked
            | .released => if gate then .released else .closing
            | .opening => if settled = some .fullOpen then .open else .opening
            | .reversing => if settled = some .fullOpen then .open else .reversing
            | .closing => if struck then (if r.reversals < p.maxReversals then .reversing else .open) else .closing
            | .unproven => .unproven
            | .open => .open
            | .absent => .absent)
      let entered := decide (after ≠ r.state)
      let armed := r.armed && decide (after = .locked)
      let command : DoorCommand := match after with
        | .unproven => .hold
        | .locked => .lock
        | .released => .unlock
        | .opening => if gate then .open else .hold
        | .open => if gate ∧ entered = false then .open else .hold
        | .closing => .close
        | .reversing => if gate ∨ entered then .open else .hold
        | .absent => .hold
      let latched : DoorEvent → Bool := fun k => match k with
        | .obstruction => struck
        | .reversal => struck && decide (r.reversals < p.maxReversals)
        | .lockLost => settles && decide (r.state = .locked)
        | .lockNotProven => false
        | .positionFault => settles && decide (position = .fault)
        | .roll => decide (after = .opening ∨ after = .open ∨ after = .reversing) && s.speedAtLeast (s.param .vDoor)
      let kept := if armed ∨ after ≠ .locked then s.postReason (.door d) else s.withdrawReason (.door d)
      let noticed := if after = .released ∧ entered then kept.releaseNotice else kept
      t = { noticed with ports := t.ports, doors := t.doors }
        ∧ s.Sends d command t
        ∧ t.door d = { r with
            state := after, armed, armTimer := if armed then r.armTimer else none, candidate := some position
            debounce := count, settled, lastEdge := sample
            reversals := if settles ∧ position = .closedLocked then 0
                         else if after = .reversing ∧ entered then r.reversals + 1 else r.reversals
            latch := (t.door d).latch, lastCommand := (t.door d).lastCommand
            lockProof := if after = .closing then
                r.lockProof.or (if s.takesDoor d command then some p.lockProof else none) else none
            releaseHold := if after = .released then
                r.releaseHold.or (if s.takesDoor d command then some p.releaseHold else none) else none }
        ∧ (∀ k, (t.door d).latch.has k = (r.latch.has k || (p.mask.has k && latched k)))
        ∧ (∀ d', d' ≠ d → t.door d' = s.door d')
        ∧ t.doors.faults = { s.doors.faults with
            obstructed := s.doors.faults.obstructed || (struck && !decide (r.reversals < p.maxReversals))
            egressDrop := t.doors.faults.egressDrop })
    ∧ (∀ (d : Door) (s : State),
        ((s.door d).state = .absent → s.doorTrigger d = s)
          ∧ (s.readInt (slotDoorPosition d) = none → s.doorTrigger d = s.losePosition d false))
    ∧ (∀ s : State, s.doorGateOpen = true ↔
        s.inRun = true ∧ (∃ v, s.speed = some v ∧ v < s.param .vDoor)
          ∧ (s.readInt slotDirection = some 0 ∨ s.readInt slotDirection = some 1)
          ∧ s.board.haltConfirmed = true ∧ s.kneel.state ≠ .raising
          ∧ ∀ r ∈ s.guardRules, r.enabled = true → r.gate = .doorRelease → s.ruleTrue r = true)
    ∧ (∀ (d : Door) (s : State),
        ((s.door d).state ≠ .absent →
          ∃ c, s.Sends d c (s.doorTrigger d) ∧ (c = .unlock ∨ c = .open → s.doorGateOpen = true
            ∨ (((s.doorTrigger d).door d).state = .reversing ∧ (s.door d).state ≠ .reversing)))
          ∧ ((s.doorRequest d).ports = s.ports
              ∨ ∃ c, s.Sends d c (s.doorRequest d) ∧ (c = .unlock ∨ c = .open → s.doorGateOpen = true))
          ∧ (∀ fitApplied, (s.losePosition d fitApplied).ports = s.ports ∨ s.Sends d .hold (s.losePosition d fitApplied))
          ∧ ((s.lockProofExpiry d).ports = s.ports ∨ s.Sends d .hold (s.lockProofExpiry d))
          ∧ ((s.releaseHoldExpiry d).ports = s.ports ∨ s.Sends d .close (s.releaseHoldExpiry d))
          ∧ (s.doorArmExpiry d).ports = s.ports ∧ s.doorsApplied.ports = s.ports)
    ∧ ∀ (c : Instr) (s t : State), exec c s = .next t → ∀ f ∈ t.ports.d.priority, f ∉ s.ports.d.priority →
        f.data = byte (doorCommandCode .unlock) ∨ f.data = byte (doorCommandCode .open) →
        ∃ p g m d, c = .frameArrival p g ∧ s.Accepts p g m
          ∧ (m.trigger = .door d ∨ slotDoorRequest d ∈ (s.extract m.place m.extractors g.data).stored)

/-- A door enters LOCKED only at an arrival that settles its position at CLOSED_LOCKED (R152, R157): one whose trigger is the
door's and that stores position 0 in its slot, after which the settled position is CLOSED_LOCKED. Before it the settled
position was another one or none, given that an ABSENT door has settled none, which every step keeps (R150, R165). -/
def Obligations.LockedOnlyBySettling : Prop :=
  (∀ (d : Door) (c : Instr) (s t : State), exec c s = .next t → (s.door d).state ≠ .locked →
    (t.door d).state = .locked →
    (∃ p f m, c = .frameArrival p f ∧ s.Accepts p f m ∧ m.trigger = .door d
        ∧ ({ s with slots := (s.extract m.place m.extractors f.data).slots } : State).readInt (slotDoorPosition d)
            = some 0)
      ∧ (t.door d).settled = some .closedLocked
      ∧ (((s.door d).state = .absent → (s.door d).settled = none) → (s.door d).settled ≠ some .closedLocked))
    ∧ ∀ s t : State, s.absentUnsettled → step s = .next t → t.absentUnsettled

/-! ## Echoes -/

/-- Echo records: the pair shifted at an emission (R167), matches and mismatches at an echo arrival with disagreement and
recovery (R168, R170), and the expiry of the echo timer as a mismatch (R169, R170). The emissions are those of an admitted
steer set (R81) and an admitted brake set (R104); a refused one is none. For an idle timer the expiry does nothing (the
model's choice, log entry 3). That a match makes the mismatch count 0 in DISAGREE too, and a mismatch after it counts from
there, is the model's reading of R168 against R169 and R170 (log entry 34). -/
def Obligations.EchoTimerExpiry : Prop :=
  let disagreed := fun (k : EchoKind) (f : EchoFaults) => match k with
    | .steer _ => { f with steerDisagree := true }
    | .brake _ => { f with axleDisagree := true }
  (∀ (k : EchoKind) (s : State),
    let r := s.echoes.records.get k
    (r.timer = none → exec (.echoTimerExpiry k) s = .next s)
      ∧ ∀ e, r.timer ≠ none → s.echoSpec k = some e →
        let enters := r.state = .agree ∧ 3 ≤ r.mismatch + 1
        exec (.echoTimerExpiry k) s = .next { s with echoes :=
          { records := s.echoes.records.set k { r with
              mismatch := min (r.mismatch + 1) 3, agreement := 0, timer := some e.deadline
              state := if enters then .disagree else r.state }
            faults := if enters then disagreed k s.echoes.faults else s.echoes.faults } })
    ∧ (∀ (k : EchoKind) (s : State),
        let r := s.echoes.records.get k
        (s.echoSpec k = none ∨ r.newest = none → s.echoArrival k = s)
          ∧ ∀ e newest, s.echoSpec k = some e → r.newest = some newest →
            let near : SlotWord → Int → Prop := fun echo v => match k with
              | .steer _ => (wd (echo.setWidth 16) (BitVec.ofInt 16 v)).natAbs ≤ e.tolerance
              | .brake _ => (echo.toInt - v).natAbs ≤ e.tolerance
            let hit := ∃ echo, s.readSlot e.slot = some echo
              ∧ (near echo newest ∨ ∃ v, r.previous = some v ∧ near echo v)
            (hit → s.echoArrival k = { s with echoes := { s.echoes with records := s.echoes.records.set k (
                if r.state = .disagree ∧ 10 ≤ r.agreement + 1 ∧ s.stationary = true then
                  { r with mismatch := 0, agreement := 0, state := .agree, timer := some e.deadline }
                else { r with mismatch := 0, agreement := min (r.agreement + 1) 10, timer := some e.deadline }) } })
              ∧ (¬hit →
                let enters := r.state = .agree ∧ 3 ≤ r.mismatch + 1
                s.echoArrival k = { s with echoes :=
                  { records := s.echoes.records.set k { r with
                      mismatch := min (r.mismatch + 1) 3, agreement := 0, timer := some e.deadline
                      state := if enters then .disagree else r.state }
                    faults := if enters then disagreed k s.echoes.faults else s.echoes.faults } }))
    ∧ (∀ (k : EchoKind) (s : State) (v : Int),
        let r := s.echoes.records.get k
        (s.echoSpec k = none → s.echoEmission k v = s)
          ∧ ∀ e, s.echoSpec k = some e → s.echoEmission k v = { s with echoes := { s.echoes with
              records := s.echoes.records.set k { r with
                previous := r.newest, newest := some v, timer := some e.deadline } } })
    ∧ (∀ (s : State) (c3 c4 : SteerCommand),
        let set := s.emitFrames [(.steer .a3, steerData c3), (.steer .a4, steerData c4)]
        (∀ y, s.ports.d.admission .priority set = some y → (s.offerSteer c3 c4).echoes =
            ((s.echoEmission (.steer .a3) (commandAngle c3)).echoEmission (.steer .a4) (commandAngle c4)).echoes)
          ∧ (s.ports.d.admission .priority set = none → (s.offerSteer c3 c4).echoes = s.echoes))
    ∧ ∀ (s : State) (demand : Nat),
        let pressure := fun a => s.axlePressure a (s.axleLoad a).1 demand
        let set := s.emitFrames [(.brake .a1, half (pressure .a1)), (.brake .a2, half (pressure .a2)),
          (.brake .a3, half (pressure .a3)), (.brake .a4, half (pressure .a4))]
        (∀ y, s.ports.d.admission .priority set = some y → (s.computePressures demand).ports = { s.ports with d := y }
            ∧ (s.computePressures demand).echoes =
              ((((s.echoEmission (.brake .a1) (pressure .a1)).echoEmission (.brake .a2) (pressure .a2)).echoEmission
                (.brake .a3) (pressure .a3)).echoEmission (.brake .a4) (pressure .a4)).echoes)
          ∧ (s.ports.d.admission .priority set = none → (s.computePressures demand).ports = s.ports
            ∧ (s.computePressures demand).echoes = s.echoes
            ∧ (s.computePressures demand).brakes.faults.egressDrop = true)

/-- Every step keeps the echo records sound: at most 3 mismatches and 10 agreements, AGREE only below 3 mismatches, and
nothing awaited before a value has been sent (R166, R167, R170). -/
def Obligations.EchoesStaySound : Prop :=
  ∀ s t : State, s.echoesSound → step s = .next t → t.echoesSound

/-! ## Management requests -/

/-- A refused response (R2, R186, R197). While Port U is BUS_OFF no request is performed: every one of the thirteen leaves
EGRESS_DROP and MGMT_DROP in the agent's set and no other trace. The same holds on an ACTIVE Port U while its ordinary queue is
full of other frames, for every request but a RESET_GO that performs the in-band reset: that one offers its response to the
queue as the reset has left it, so a full queue does not refuse it (R197). That a request's command can come while Port U is
BUS_OFF at all is the model's reading (log entry 7). -/
def Obligations.RequestsWhileBusOff : Prop :=
  (∀ (i : Instr) (data : List Byte) (s : State), requestData i = some data →
    let dropped := exec i s = .next { s with agent := { s.agent with faults := { egressDrop := true, mgmtDrop := true } } }
    let resets := (∃ rest, i = .resetGo rest) ∧ s.agent.resetArm ≠ none ∧ (s.inRun = false ∨ s.stationary = true)
    let full := 32 ≤ s.ports.u.ordinary.length ∧ ∀ f ∈ s.ports.u.ordinary, f.id ≠ .ext (responseId s.node)
    (s.ports.u.link = .busOff → dropped) ∧ (full → ¬resets → dropped))
    ∧ ∀ (rest : List Byte) (s : State), s.agent.resetArm ≠ none → (s.inRun = false ∨ s.stationary = true) →
        s.ports.u.link = .active → ∃ t : State, exec (.resetGo rest) s = .next t
          ∧ t.ports.u.ordinary = [{ id := .ext (responseId s.node), data := [12, tagOf rest, 0] }]
          ∧ t.agent.faults = { egressDrop := false, mgmtDrop := false }

/-- IDENT and BAD_REQUEST (R187, R188): the four leaves, BAD_REQUEST for any other and for a frame too short to name one, and
for a frame whose code names no request the copy of its code. -/
def Obligations.IdentAndBadRequest : Prop :=
  (∀ (tag : Byte) (leaf : Byte) (more : List Byte) (s : State) (q : PortState),
    (leaf = 0 → s.Answers [1, tag, 0, 3, 0x17, 0x0D] q → exec (.ident (tag :: leaf :: more)) s = .next (s.answered q))
      ∧ (leaf = 1 → s.Answers [1, tag, 0, 0x24, 0x05, 0x10] q →
          exec (.ident (tag :: leaf :: more)) s = .next (s.answered q))
      ∧ (leaf = 2 → s.Answers [1, tag, 0, 96, 64, 0, 1, 16, 8, 32] q →
          exec (.ident (tag :: leaf :: more)) s = .next (s.answered q))
      ∧ (leaf = 3 → s.Answers [1, tag, 0, 4, 8, 5, 2] q → exec (.ident (tag :: leaf :: more)) s = .next (s.answered q))
      ∧ (3 < leaf.toNat → s.Answers [1, tag, 2] q → exec (.ident (tag :: leaf :: more)) s = .next (s.answered q)))
    ∧ (∀ (rest : List Byte) (s : State) (q : PortState), rest.length ≤ 1 → s.Answers [1, rest.headD 0, 2] q →
        exec (.ident rest) s = .next (s.answered q))
    ∧ (∀ (data : List Byte) (s : State) (q : PortState), s.Answers [data.headD 0, (data.drop 1).headD 0, 2] q →
        exec (.badRequest data) s = .next (s.answered q))

/-- STATUS (R189): the report of 33 bytes, the first 31 with part state, cycle source, hold flag, pending set, outcome and the ten fault
sets as they stand, and then, with the clear option, no fault but those whose standing condition holds (R25, R58, R86, R97,
R114, R134, R148, R164, R171); a set unused bit or a missing option byte is BAD_REQUEST. The two reason
sets, which R42 has STATUS report too, follow in bytes 31 and 32; that place and their coding are the model's choice (log
entry 32). -/
def Obligations.StatusRequest : Prop :=
  (∀ (tag option : Byte) (more : List Byte) (s : State) (q : PortState),
    let fields := [2, tag, 0]
      ++ byte (s.inRun.toNat + 2 * (decide (s.path.cycle.sync = .followingSync)).toNat + 4 * s.tables.hold.toNat)
      ++ byte (tableMask s.tables.waiting) ++ byte (tableMask s.tables.outcome.tables)
      ++ byte (resultCode s.tables.outcome.result) ++ epochBytes s.tables.outcome.epochs
      ++ s.faultBits.flatMap fun bs => half (bitsNat bs)
    let report := fields ++ byte s.board.haltSet.bits ++ byte s.board.driveInhibit.bits
    let stale := fun cls => ∃ (i : SlotId) (e : Fin 96),
      s.slots[i].validity = .stale ∧ s.slots[i].source = some e ∧ s.entryClass e = some cls
    (fields.length = 31 ∧ report.length = 33)
      ∧ (option = 0 → s.Answers report q → exec (.status (tag :: option :: more)) s = .next (s.answered q))
      ∧ (option = 1 → s.Answers report q →
          ∃ t : State, exec (.status (tag :: option :: more)) s = .next t
            ∧ t = { s.answered q with
                path := { s.path with faults := t.path.faults }, board := { s.board with faults := t.board.faults }
                steering := { s.steering with faults := t.steering.faults }
                joints := { s.joints with faults := t.joints.faults }
                brakes := { s.brakes with faults := t.brakes.faults }
                levels := { s.levels with faults := t.levels.faults }
                kneel := { s.kneel with faults := t.kneel.faults }
                doors := { s.doors with faults := t.doors.faults }
                echoes := { s.echoes with faults := t.echoes.faults }
                agent := { s.agent with resetArm := none, faults := { egressDrop := false, mgmtDrop := false } } }
            ∧ t.path.faults = { PathFaults.empty with
                portBusOffU := s.path.faults.portBusOffU && decide (q.link = .busOff)
                portBusOffD := s.path.faults.portBusOffD && decide (s.ports.d.link = .busOff)
                sampleLost := t.path.faults.sampleLost, commandLost := t.path.faults.commandLost
                statusLost := t.path.faults.statusLost
                syncLost := s.path.faults.syncLost
                  && (decide (s.path.cycle.sync = .freeRun) && s.inRun && s.hasSyncEntry) }
            ∧ (t.path.faults.sampleLost = true ↔ s.path.faults.sampleLost = true ∧ stale .sample)
            ∧ (t.path.faults.commandLost = true ↔ s.path.faults.commandLost = true ∧ stale .command)
            ∧ (t.path.faults.statusLost = true ↔ s.path.faults.statusLost = true ∧ stale .status)
            ∧ t.board.faults.egressDrop = false
            ∧ t.steering.faults.trackBroken = false ∧ t.steering.faults.egressDrop = false
            ∧ t.steering.faults.limitEscape = (s.steering.faults.limitEscape
                && decide (s.steering.rear.a3.mode = .locked ∨ s.steering.rear.a4.mode = .locked))
            ∧ t.joints.faults.breachJ1 = (s.joints.faults.breachJ1
                && decide ((s.joints.records.get .j1).envelope = .breach))
            ∧ t.joints.faults.breachJ2 = (s.joints.faults.breachJ2
                && decide ((s.joints.records.get .j2).envelope = .breach))
            ∧ t.joints.faults.egressDrop = false
            ∧ (t.brakes.faults.loadFallback = true ↔ s.brakes.faults.loadFallback = true
                ∧ ((∃ a, s.brakes.sources.get a = .fallback)
                    ∨ ∃ x, s.brakes.snapshot = some x ∧ x.anyFallback = true))
            ∧ (t.brakes.faults.demandStale = true ↔ s.brakes.faults.demandStale = true
                ∧ (s.slots[slotBrakeDemand].validity = .stale
                    ∨ (s.slots[slotBrakeDemand].validity = .valid ∧ s.readInt slotBrakeDemand = none)))
            ∧ t.brakes.faults.egressDrop = false
            ∧ (t.levels.faults.heightStale = true ↔
                s.levels.faults.heightStale = true ∧ ∃ c, (s.levels.corners.get c).mode = .fault)
            ∧ (t.levels.faults.levelSlow = true ↔
                s.levels.faults.levelSlow = true ∧ ∃ c, (s.levels.corners.get c).slow = true)
            ∧ t.levels.faults.egressDrop = false
            ∧ t.kneel.faults.armTimeout = false
            ∧ t.kneel.faults.kneelTimeout = (s.kneel.faults.kneelTimeout && decide (s.kneel.state = .paused))
            ∧ t.kneel.faults.raiseTimeout = (s.kneel.faults.raiseTimeout && s.kneel.faultPosted)
            ∧ t.doors.faults.armTimeout = false ∧ t.doors.faults.egressDrop = false
            ∧ (t.doors.faults.obstructed = true ↔ s.doors.faults.obstructed = true
                ∧ ∃ d, s.fitted d = true ∧ (s.door d).state = .open
                    ∧ (s.door d).reversals = (s.doorParams d).maxReversals)
            ∧ (t.doors.faults.signalLost = true ↔ s.doors.faults.signalLost = true
                ∧ ∃ d, s.fitted d = true ∧ s.readInt (slotDoorPosition d) = none)
            ∧ (t.echoes.faults.steerDisagree = true ↔
                s.echoes.faults.steerDisagree = true ∧ ∃ r, s.disagrees (.steer r) = true)
            ∧ (t.echoes.faults.axleDisagree = true ↔
                s.echoes.faults.axleDisagree = true ∧ ∃ a, s.disagrees (.brake a) = true))
      ∧ (2 ≤ option.toNat → s.Answers [2, tag, 2] q →
          exec (.status (tag :: option :: more)) s = .next (s.answered q)))
    ∧ ∀ (rest : List Byte) (s : State) (q : PortState), rest.length ≤ 1 → s.Answers [2, tagOf rest, 2] q →
        exec (.status rest) s = .next (s.answered q)

/-- READ (R187, R190, R191): the positions treated from the named start, or from the cursor's under CONTINUE, in the three
modes; the images of the staged or the active copy in turn, and the cursor moved on to the position after the last; of an
ABSENT active copy BAD_TABLE; an index beyond the table BAD_INDEX; and BAD_REQUEST for a count that the table does not
allow, a set bit 7, mode 3 or a missing parameter, before BAD_TABLE for the code 7. None of the refusals moves the cursor.
Under CONTINUE the count is judged by the cursor's table (the model's reading, log entry 14), and with the code 7 by the
largest that any table allows (log entry 26). -/
def Obligations.ReadRequest : Prop :=
  (∀ (tag b index count : Byte) (more : List Byte) (s : State) (q : PortState) (n : TableName) (start : Nat)
      (mode : AdvanceMode), bit b.toNat 7 = false →
    (bit b.toNat 3 = true → s.agent.cursor = { table := n, index := start, mode }) →
    (bit b.toNat 3 = false →
      tableOf (b.toNat % 8) = some n ∧ start = index.toNat ∧ modeOf (b.toNat / 16 % 4) = some mode) →
    let read : Instr := .read (tag :: b :: index :: count :: more)
    let onward := fun p : Nat => match mode with
      | .table => if p + 1 = tableSize n then 0 else p + 1
      | .group => if n = .corner then (if p % 2 = 0 then p + 1 else p - 1) else p
      | .fixed => p
    let images := (List.range count.toNat).map fun k =>
      if bit b.toNat 6 then activeImage s.tables.active n (onward^[k] start)
      else some (stagedImage s.tables.staged n (onward^[k] start))
    (count.toNat = 0 ∨ 59 / imageSize n < count.toNat → s.Answers [3, tag, 2] q → exec read s = .next (s.answered q))
      ∧ (1 ≤ count.toNat → count.toNat ≤ 59 / imageSize n → tableSize n ≤ start → s.Answers [3, tag, 4] q →
          exec read s = .next (s.answered q))
      ∧ (1 ≤ count.toNat → count.toNat ≤ 59 / imageSize n → start < tableSize n →
          (none ∈ images → s.Answers [3, tag, 3] q → exec read s = .next (s.answered q))
            ∧ ∀ shown : List (List Byte), images = shown.map some →
                s.Answers ([3, tag, 0] ++ byte start ++ byte count.toNat ++ shown.flatten) q →
                exec read s = .next { s.answered q with
                  agent := { s.agent with
                    resetArm := none, cursor := { table := n, index := onward^[count.toNat] start, mode } } }))
    ∧ (∀ (tag b index count : Byte) (more : List Byte) (s : State) (q : PortState),
        let read : Instr := .read (tag :: b :: index :: count :: more)
        (bit b.toNat 7 = true ∨ (bit b.toNat 3 = false ∧ b.toNat / 16 % 4 = 3) → s.Answers [3, tag, 2] q →
          exec read s = .next (s.answered q))
          ∧ (bit b.toNat 7 = false → bit b.toNat 3 = false → b.toNat / 16 % 4 ≠ 3 → b.toNat % 8 = 7 →
              (count.toNat = 0 ∨ 14 < count.toNat → s.Answers [3, tag, 2] q → exec read s = .next (s.answered q))
                ∧ (1 ≤ count.toNat → count.toNat ≤ 14 → s.Answers [3, tag, 3] q →
                    exec read s = .next (s.answered q))))
    ∧ ∀ (rest : List Byte) (s : State) (q : PortState), rest.length ≤ 3 → s.Answers [3, tagOf rest, 2] q →
        exec (.read rest) s = .next (s.answered q)

/-- WRITE and SWAP (R173, R178, R187, R190, R192, R193). A WRITE of several images in turn, from the named start or under
CONTINUE from the cursor's, in the three modes: PENDING for a table of the pending set, RANGE where one of the images is
illegal, and otherwise the images coerced into the positions treated, the sum brought up to date, the cursor moved on, and the
response with the count of coerced values and the new sum; BAD_INDEX beyond the table. A SWAP: PENDING, RANGE, MISMATCH where
the check is not the staged entry's, and otherwise the image in place. Both answer BAD_REQUEST where a count is not legal, a
bit is set that the layout gives as 0, or the frame is too short, before they answer BAD_TABLE for the code 7, of which the
length is judged by the shortest image (the model's reading, log entry 26). Under CONTINUE the count and the length of a WRITE are
judged by the cursor's table (the model's reading, log entry 14), and what counts as a coerced value in the responses is the
model's reading (log entry 21). -/
def Obligations.WriteAndSwap : Prop :=
  (∀ (tag b index count : Byte) (images : List (List Byte)) (more : List Byte) (s : State) (q : PortState) (n : TableName)
      (start : Nat) (mode : AdvanceMode), bit b.toNat 7 = false → bit b.toNat 6 = false →
    (bit b.toNat 3 = true → s.agent.cursor = { table := n, index := start, mode }) →
    (bit b.toNat 3 = false →
      tableOf (b.toNat % 8) = some n ∧ start = index.toNat ∧ modeOf (b.toNat / 16 % 4) = some mode) →
    images.length = count.toNat → (∀ image ∈ images, image.length = imageSize n) →
    1 ≤ count.toNat → count.toNat ≤ 59 / imageSize n →
    let write : Instr := .write (tag :: b :: index :: count :: (images.flatten ++ more))
    let onward := fun p : Nat => match mode with
      | .table => if p + 1 = tableSize n then 0 else p + 1
      | .group => if n = .corner then (if p % 2 = 0 then p + 1 else p - 1) else p
      | .fixed => p
    let treated := (List.range count.toNat).map fun k => onward^[k] start
    let written := (treated.zip images).foldlM (fun (x : StagedTables × Nat) (y : Nat × List Byte) =>
      (writeImage s.node x.1 n y.1 y.2).map fun z => (z.1, x.2 + z.2)) (s.tables.staged, 0)
    (tableSize n ≤ start → s.Answers [4, tag, 4] q → exec write s = .next (s.answered q))
      ∧ (start < tableSize n → s.tables.waiting.get n = true → s.Answers [4, tag, 6] q →
          exec write s = .next (s.answered q))
      ∧ (start < tableSize n → s.tables.waiting.get n = false → written = none → s.Answers [4, tag, 5] q →
          exec write s = .next (s.answered q))
      ∧ (∀ st coerced, start < tableSize n → s.tables.waiting.get n = false → written = some (st, coerced) →
          s.Answers ([4, tag, 0] ++ byte start ++ byte count.toNat ++ byte coerced ++ half (entrySum st n).toNat) q →
          exec write s = .next { s.answered q with
            tables := { s.tables with staged := st, sums := s.tables.sums.set n (entrySum st n) }
            agent := { s.agent with
              resetArm := none, cursor := { table := n, index := onward^[count.toNat] start, mode } } }))
    ∧ (∀ (tag index low high : Byte) (image more : List Byte) (n : TableName) (code : Fin 7) (s : State) (q : PortState),
        tableOf code = some n → image.length = imageSize n →
        let swap : Instr := .swap (tag :: BitVec.ofNat 8 code :: index :: low :: high :: (image ++ more))
        let check := entryCheck s.tables.staged n index.toNat
        (tableSize n ≤ index.toNat → s.Answers [5, tag, 4] q → exec swap s = .next (s.answered q))
          ∧ (index.toNat < tableSize n → s.tables.waiting.get n = true → s.Answers [5, tag, 6] q →
              exec swap s = .next (s.answered q))
          ∧ (index.toNat < tableSize n → s.tables.waiting.get n = false →
              writeImage s.node s.tables.staged n index.toNat image = none →
              s.Answers [5, tag, 5] q → exec swap s = .next (s.answered q))
          ∧ (∀ st coerced, index.toNat < tableSize n → s.tables.waiting.get n = false →
              writeImage s.node s.tables.staged n index.toNat image = some (st, coerced) →
              (check ≠ low.toNat + 256 * high.toNat →
                s.Answers ([5, tag, 11] ++ half check ++ stagedImage s.tables.staged n index.toNat) q →
                exec swap s = .next (s.answered q))
                ∧ (check = low.toNat + 256 * high.toNat →
                  s.Answers ([5, tag, 0] ++ byte coerced ++ half (entrySum st n).toNat) q →
                  exec swap s = .next { s.answered q with
                    tables := { s.tables with staged := st, sums := s.tables.sums.set n (entrySum st n) } })))
    ∧ (∀ (tag b index count : Byte) (more : List Byte) (s : State) (q : PortState),
        let write : Instr := .write (tag :: b :: index :: count :: more)
        (bit b.toNat 7 = true ∨ bit b.toNat 6 = true ∨ (bit b.toNat 3 = false ∧ b.toNat / 16 % 4 = 3) →
          s.Answers [4, tag, 2] q → exec write s = .next (s.answered q))
          ∧ (bit b.toNat 7 = false → bit b.toNat 6 = false → bit b.toNat 3 = false → b.toNat / 16 % 4 ≠ 3 →
              b.toNat % 8 = 7 →
              (count.toNat = 0 ∨ 14 < count.toNat ∨ more.length < 4 * count.toNat → s.Answers [4, tag, 2] q →
                exec write s = .next (s.answered q))
                ∧ (1 ≤ count.toNat → count.toNat ≤ 14 → 4 * count.toNat ≤ more.length → s.Answers [4, tag, 3] q →
                    exec write s = .next (s.answered q)))
          ∧ (∀ n, bit b.toNat 7 = false → bit b.toNat 6 = false → (bit b.toNat 3 = false → b.toNat / 16 % 4 ≠ 3) →
              (if bit b.toNat 3 then some s.agent.cursor.table else tableOf (b.toNat % 8)) = some n →
              count.toNat = 0 ∨ 59 / imageSize n < count.toNat ∨ more.length < count.toNat * imageSize n →
              s.Answers [4, tag, 2] q → exec write s = .next (s.answered q)))
    ∧ ∀ (rest : List Byte) (s : State) (q : PortState),
        (rest.length ≤ 3 → s.Answers [4, tagOf rest, 2] q → exec (.write rest) s = .next (s.answered q))
          ∧ (rest.length ≤ 8 → s.Answers [5, tagOf rest, 2] q → exec (.swap rest) s = .next (s.answered q))
          ∧ (∀ n, tableOf ((rest[1]?).getD 0).toNat = some n → rest.length < 5 + imageSize n →
              s.Answers [5, tagOf rest, 2] q → exec (.swap rest) s = .next (s.answered q))
          ∧ (9 ≤ rest.length → (rest[1]?).getD 0 = 7 → s.Answers [5, tagOf rest, 3] q →
              exec (.swap rest) s = .next (s.answered q))

/-- COMMIT, HOLD, RELEASE and DISCARD (R176 to R179, R182, R187, R194). A COMMIT answers PENDING, SUM_MISMATCH with the staged
sum, GEOMETRY for AXLE and CONSTANTS, DUPLICATE for FIT, INCOMPLETE for FIT and DOOR, and ACCEPTED with the new pending set where
the checks of its table pass; what the three checks say of a combination. HOLD and RELEASE set and clear the hold flag. DISCARD
empties the pending set, recorded as CANCELLED, and makes the named staged copies the active ones or blank (a staged FIT restored
from the active one has its entries at the positions from 0, the model's choice, log entry 29). A short frame is BAD_REQUEST;
the table code 7, and bit 7 of the mask, BAD_TABLE; a code above 7 one of the two (left open, log entry 12). -/
def Obligations.CommitControl : Prop :=
  (∀ (tag low high : Byte) (more : List Byte) (n : TableName) (code : Fin 7) (s : State) (q : PortState),
    tableOf code = some n →
    let commit : Instr := .commit (tag :: BitVec.ofNat 8 code :: low :: high :: more)
    let sum := low.toNat + 256 * high.toNat
    let joined := s.tables.waiting.set n true
    let next := copyTables s.tables.staged s.tables.active joined
    (s.tables.waiting.get n = true → s.Answers [6, tag, 6] q → exec commit s = .next (s.answered q))
      ∧ (s.tables.waiting.get n = false → sum ≠ (s.tables.sums.get n).toNat →
          s.Answers ([6, tag, 7] ++ half (s.tables.sums.get n).toNat) q → exec commit s = .next (s.answered q))
      ∧ (s.tables.waiting.get n = false → sum = (s.tables.sums.get n).toNat →
          (n = .axle ∨ n = .constants → geometryHolds next = true) → (n = .fit → noDuplicate (next.fit.getD []) = true) →
          (n = .fit ∨ n = .door → complete next = true) →
          s.Answers ([6, tag, 1] ++ byte (tableMask joined)) q →
          exec commit s = .next { s.answered q with tables := { s.tables with waiting := joined } })
      ∧ (s.tables.waiting.get n = false → sum = (s.tables.sums.get n).toNat → (n = .axle ∨ n = .constants) →
          geometryHolds next = false → s.Answers [6, tag, 10] q → exec commit s = .next (s.answered q))
      ∧ (s.tables.waiting.get n = false → sum = (s.tables.sums.get n).toNat → n = .fit →
          noDuplicate (next.fit.getD []) = false → s.Answers [6, tag, 8] q → exec commit s = .next (s.answered q))
      ∧ (s.tables.waiting.get n = false → sum = (s.tables.sums.get n).toNat → (n = .fit ∨ n = .door) →
          (n = .fit → noDuplicate (next.fit.getD []) = true) → complete next = false →
          s.Answers [6, tag, 9] q → exec commit s = .next (s.answered q)))
    ∧ (∀ (tag code low high : Byte) (rest more : List Byte) (s : State) (q : PortState),
        let commit : Instr := .commit (tag :: code :: low :: high :: more)
        (rest.length ≤ 3 → s.Answers [6, tagOf rest, 2] q → exec (.commit rest) s = .next (s.answered q))
          ∧ (code.toNat = 7 → s.Answers [6, tag, 3] q → exec commit s = .next (s.answered q))
          ∧ (8 ≤ code.toNat → s.Answers [6, tag, if Config.wideTableCodeIsBadTable code then 3 else 2] q →
              exec commit s = .next (s.answered q))
          ∧ (rest.length ≤ 1 → s.Answers [9, tagOf rest, 2] q → exec (.discard rest) s = .next (s.answered q)))
    ∧ ((∀ es : List FitEntry, noDuplicate es = true ↔
          es.Pairwise (fun a b => ¬(a.role.rank = b.role.rank ∧ a.id = b.id))
            ∧ es.Pairwise (fun a b => ¬(a.role.isSync = true ∧ b.role.isSync = true))
            ∧ es.Pairwise (fun a b => ∀ k e e', a.role = .emit k e → b.role ≠ .emit k e'))
        ∧ (∀ c : ActiveTables, complete c = true ↔ ∀ es, c.fit = some es →
            (∀ k, (∀ d, k ≠ .door d) → ∃ x ∈ es, ∃ e, x.role = .emit k e)
              ∧ ∀ v d, c.door = some v → (v[doorIndex d]).fitted = true → ∃ x ∈ es, ∃ e, x.role = .emit (.door d) e)
        ∧ ∀ c : ActiveTables, geometryHolds c = true ↔ ∀ v, c.axle = some v →
            v[axleIndex .a3].path < v[axleIndex .a4].path ∧ ∀ k, c.constants = some k →
              2 * k[Param.pitch.index].toNat ≤ v[axleIndex .a3].path
                ∧ v[axleIndex .a4].path ≤ 250 * k[Param.pitch.index].toNat)
    ∧ (∀ (rest : List Byte) (s : State) (q : PortState),
        (s.Answers [7, tagOf rest, 0] q →
          exec (.hold rest) s = .next { s.answered q with tables := { s.tables with hold := true } })
          ∧ (s.Answers [8, tagOf rest, 0] q →
            exec (.release rest) s = .next { s.answered q with tables := { s.tables with hold := false } }))
    ∧ (∀ (tag mask : Byte) (more : List Byte) (s : State) (q : PortState),
        (mask.toNat < 128 → s.Answers [9, tag, 0] q →
          ∃ t : State, exec (.discard (tag :: mask :: more)) s = .next t
            ∧ t = { s.answered q with tables := t.tables }
            ∧ (∀ n, t.tables.waiting.get n = false) ∧ t.tables.active = s.tables.active
            ∧ t.tables.hold = s.tables.hold ∧ t.tables.epochs = s.tables.epochs
            ∧ t.tables.partState = s.tables.partState
            ∧ ((∀ n, s.tables.waiting.get n = false) → t.tables.outcome = s.tables.outcome)
            ∧ ((∃ n, s.tables.waiting.get n = true) → t.tables.outcome =
                { tables := s.tables.waiting, result := .cancelled, epochs := s.tables.epochs })
            ∧ (∀ n (code : Fin 7), tableOf code = some n →
                (bit mask.toNat code = false → ∀ i, stagedImage t.tables.staged n i = stagedImage s.tables.staged n i)
                  ∧ (bit mask.toNat code = true → ∀ i < tableSize n,
                      some (stagedImage t.tables.staged n i) =
                        (activeImage s.tables.active n i).orElse fun _ =>
                          some (stagedImage StagedTables.blank n i))))
          ∧ (128 ≤ mask.toNat → s.Answers [9, tag, 3] q →
            exec (.discard (tag :: mask :: more)) s = .next (s.answered q)))

/-- EVENTS (R187, R195): the latch, state and last admitted command of each door that is in the mask and fitted, zero bytes for
the others (the model's choice, log entry 15), and with the clear option the reported latches emptied; BAD_REQUEST for a frame
without the mask or the option. The mask's and the option's spare bits are ignored (the model's choice, log entry 13). -/
def Obligations.EventsRequest : Prop :=
  (∀ (tag mask option : Byte) (more : List Byte) (s : State) (q : PortState),
    let reported := fun d => bit mask.toNat (doorIndex d).val && s.fitted d
    let one := fun d : Door => if reported d then
        byte (eventSetBits (s.door d).latch) ++ byte (doorStateCode (s.door d).state)
          ++ byte (match (s.door d).lastCommand with
            | none => 255
            | some c => doorCommandCode c)
      else [0, 0, 0]
    s.Answers ([10, tag, 0]
      ++ byte (bitsNat [reported .d1, reported .d2, reported .d3, reported .d4, reported .d5])
      ++ one .d1 ++ one .d2 ++ one .d3 ++ one .d4 ++ one .d5) q →
    (bit option.toNat 0 = false → exec (.events (tag :: mask :: option :: more)) s = .next (s.answered q))
      ∧ (bit option.toNat 0 = true →
          ∃ t : State, exec (.events (tag :: mask :: option :: more)) s = .next t
            ∧ (∀ d, t.door d = if reported d then { s.door d with latch := .empty } else s.door d)
            ∧ t = { s.answered q with doors := { s.doors with records := t.doors.records } }))
    ∧ ∀ (rest : List Byte) (s : State) (q : PortState), rest.length ≤ 2 → s.Answers [10, tagOf rest, 2] q →
        exec (.events rest) s = .next (s.answered q)

/-- The reset-arm record (R196): RESET_ARM arms it for 500 ms, its timer's expiry clears it, a RESET_GO that finds it CLEAR is
answered SEQUENCE, and one that finds the vehicle moving in RUN is answered NOT_STILL and clears it. -/
def Obligations.ResetArming : Prop :=
  ∀ (rest : List Byte) (s : State) (q : PortState),
    (s.Answers [11, tagOf rest, 0] q →
      exec (.resetArm rest) s = .next { s.answered q with agent := { s.agent with resetArm := some 500 } })
      ∧ exec .resetArmTimerExpiry s = .next { s with agent := { s.agent with resetArm := none } }
      ∧ (s.agent.resetArm = none → s.Answers [12, tagOf rest, 12] q →
          exec (.resetGo rest) s = .next (s.answered q))
      ∧ (s.agent.resetArm ≠ none → s.inRun = true → s.stationary = false → s.Answers [12, tagOf rest, 13] q →
          exec (.resetGo rest) s = .next (s.answered q))

end
end

