-- ==== Sys2Proof/Laws/State.lean ====
section
/-! SUPPORT. What each update of the state leaves of every field: one lemma per field per update, all true by
definition. -/

namespace Sys2Proof.Machine

/-! ## setPort -/

@[simp] theorem State.setPort_node (s : State) (p : Port) (x : PortState) : (s.setPort p x).node = s.node := rfl
@[simp] theorem State.setPort_path (s : State) (p : Port) (x : PortState) : (s.setPort p x).path = s.path := rfl
@[simp] theorem State.setPort_slots (s : State) (p : Port) (x : PortState) : (s.setPort p x).slots = s.slots := rfl
@[simp] theorem State.setPort_board (s : State) (p : Port) (x : PortState) : (s.setPort p x).board = s.board := rfl
@[simp] theorem State.setPort_track (s : State) (p : Port) (x : PortState) : (s.setPort p x).track = s.track := rfl
@[simp] theorem State.setPort_steering (s : State) (p : Port) (x : PortState) : (s.setPort p x).steering = s.steering := rfl
@[simp] theorem State.setPort_joints (s : State) (p : Port) (x : PortState) : (s.setPort p x).joints = s.joints := rfl
@[simp] theorem State.setPort_brakes (s : State) (p : Port) (x : PortState) : (s.setPort p x).brakes = s.brakes := rfl
@[simp] theorem State.setPort_levels (s : State) (p : Port) (x : PortState) : (s.setPort p x).levels = s.levels := rfl
@[simp] theorem State.setPort_kneel (s : State) (p : Port) (x : PortState) : (s.setPort p x).kneel = s.kneel := rfl
@[simp] theorem State.setPort_doors (s : State) (p : Port) (x : PortState) : (s.setPort p x).doors = s.doors := rfl
@[simp] theorem State.setPort_echoes (s : State) (p : Port) (x : PortState) : (s.setPort p x).echoes = s.echoes := rfl
@[simp] theorem State.setPort_tables (s : State) (p : Port) (x : PortState) : (s.setPort p x).tables = s.tables := rfl
@[simp] theorem State.setPort_agent (s : State) (p : Port) (x : PortState) : (s.setPort p x).agent = s.agent := rfl
@[simp] theorem State.setPort_orderCount (s : State) (p : Port) (x : PortState) : (s.setPort p x).orderCount = s.orderCount := rfl
@[simp] theorem State.setPort_pending (s : State) (p : Port) (x : PortState) : (s.setPort p x).pending = s.pending := rfl
@[simp] theorem State.setPort_ports (s : State) (p : Port) (x : PortState) : (s.setPort p x).ports = s.ports.set p x := rfl

/-! ## latchPath -/

@[simp] theorem State.latchPath_node (s : State) (f : PathFaults → PathFaults) : (s.latchPath f).node = s.node := rfl
@[simp] theorem State.latchPath_ports (s : State) (f : PathFaults → PathFaults) : (s.latchPath f).ports = s.ports := rfl
@[simp] theorem State.latchPath_slots (s : State) (f : PathFaults → PathFaults) : (s.latchPath f).slots = s.slots := rfl
@[simp] theorem State.latchPath_board (s : State) (f : PathFaults → PathFaults) : (s.latchPath f).board = s.board := rfl
@[simp] theorem State.latchPath_track (s : State) (f : PathFaults → PathFaults) : (s.latchPath f).track = s.track := rfl
@[simp] theorem State.latchPath_steering (s : State) (f : PathFaults → PathFaults) : (s.latchPath f).steering = s.steering := rfl
@[simp] theorem State.latchPath_joints (s : State) (f : PathFaults → PathFaults) : (s.latchPath f).joints = s.joints := rfl
@[simp] theorem State.latchPath_brakes (s : State) (f : PathFaults → PathFaults) : (s.latchPath f).brakes = s.brakes := rfl
@[simp] theorem State.latchPath_levels (s : State) (f : PathFaults → PathFaults) : (s.latchPath f).levels = s.levels := rfl
@[simp] theorem State.latchPath_kneel (s : State) (f : PathFaults → PathFaults) : (s.latchPath f).kneel = s.kneel := rfl
@[simp] theorem State.latchPath_doors (s : State) (f : PathFaults → PathFaults) : (s.latchPath f).doors = s.doors := rfl
@[simp] theorem State.latchPath_echoes (s : State) (f : PathFaults → PathFaults) : (s.latchPath f).echoes = s.echoes := rfl
@[simp] theorem State.latchPath_tables (s : State) (f : PathFaults → PathFaults) : (s.latchPath f).tables = s.tables := rfl
@[simp] theorem State.latchPath_agent (s : State) (f : PathFaults → PathFaults) : (s.latchPath f).agent = s.agent := rfl
@[simp] theorem State.latchPath_orderCount (s : State) (f : PathFaults → PathFaults) : (s.latchPath f).orderCount = s.orderCount := rfl
@[simp] theorem State.latchPath_pending (s : State) (f : PathFaults → PathFaults) : (s.latchPath f).pending = s.pending := rfl
@[simp] theorem State.latchPath_path_faults (s : State) (f : PathFaults → PathFaults) : (s.latchPath f).path.faults = f s.path.faults := rfl
@[simp] theorem State.latchPath_path_entries (s : State) (f : PathFaults → PathFaults) : (s.latchPath f).path.entries = s.path.entries := rfl
@[simp] theorem State.latchPath_path_cycle (s : State) (f : PathFaults → PathFaults) : (s.latchPath f).path.cycle = s.path.cycle := rfl

/-! ## setEntry -/

@[simp] theorem State.setEntry_node (s : State) (i : Fin 96) (r : EntryRecord) : (s.setEntry i r).node = s.node := rfl
@[simp] theorem State.setEntry_ports (s : State) (i : Fin 96) (r : EntryRecord) : (s.setEntry i r).ports = s.ports := rfl
@[simp] theorem State.setEntry_slots (s : State) (i : Fin 96) (r : EntryRecord) : (s.setEntry i r).slots = s.slots := rfl
@[simp] theorem State.setEntry_board (s : State) (i : Fin 96) (r : EntryRecord) : (s.setEntry i r).board = s.board := rfl
@[simp] theorem State.setEntry_track (s : State) (i : Fin 96) (r : EntryRecord) : (s.setEntry i r).track = s.track := rfl
@[simp] theorem State.setEntry_steering (s : State) (i : Fin 96) (r : EntryRecord) : (s.setEntry i r).steering = s.steering := rfl
@[simp] theorem State.setEntry_joints (s : State) (i : Fin 96) (r : EntryRecord) : (s.setEntry i r).joints = s.joints := rfl
@[simp] theorem State.setEntry_brakes (s : State) (i : Fin 96) (r : EntryRecord) : (s.setEntry i r).brakes = s.brakes := rfl
@[simp] theorem State.setEntry_levels (s : State) (i : Fin 96) (r : EntryRecord) : (s.setEntry i r).levels = s.levels := rfl
@[simp] theorem State.setEntry_kneel (s : State) (i : Fin 96) (r : EntryRecord) : (s.setEntry i r).kneel = s.kneel := rfl
@[simp] theorem State.setEntry_doors (s : State) (i : Fin 96) (r : EntryRecord) : (s.setEntry i r).doors = s.doors := rfl
@[simp] theorem State.setEntry_echoes (s : State) (i : Fin 96) (r : EntryRecord) : (s.setEntry i r).echoes = s.echoes := rfl
@[simp] theorem State.setEntry_tables (s : State) (i : Fin 96) (r : EntryRecord) : (s.setEntry i r).tables = s.tables := rfl
@[simp] theorem State.setEntry_agent (s : State) (i : Fin 96) (r : EntryRecord) : (s.setEntry i r).agent = s.agent := rfl
@[simp] theorem State.setEntry_orderCount (s : State) (i : Fin 96) (r : EntryRecord) : (s.setEntry i r).orderCount = s.orderCount := rfl
@[simp] theorem State.setEntry_pending (s : State) (i : Fin 96) (r : EntryRecord) : (s.setEntry i r).pending = s.pending := rfl
@[simp] theorem State.setEntry_path_entries (s : State) (i : Fin 96) (r : EntryRecord) : (s.setEntry i r).path.entries = s.path.entries.set i r := rfl
@[simp] theorem State.setEntry_path_faults (s : State) (i : Fin 96) (r : EntryRecord) : (s.setEntry i r).path.faults = s.path.faults := rfl
@[simp] theorem State.setEntry_path_cycle (s : State) (i : Fin 96) (r : EntryRecord) : (s.setEntry i r).path.cycle = s.path.cycle := rfl

/-! ## setCycleTimer -/

@[simp] theorem State.setCycleTimer_node (s : State) (t : Timer) : (s.setCycleTimer t).node = s.node := rfl
@[simp] theorem State.setCycleTimer_ports (s : State) (t : Timer) : (s.setCycleTimer t).ports = s.ports := rfl
@[simp] theorem State.setCycleTimer_slots (s : State) (t : Timer) : (s.setCycleTimer t).slots = s.slots := rfl
@[simp] theorem State.setCycleTimer_board (s : State) (t : Timer) : (s.setCycleTimer t).board = s.board := rfl
@[simp] theorem State.setCycleTimer_track (s : State) (t : Timer) : (s.setCycleTimer t).track = s.track := rfl
@[simp] theorem State.setCycleTimer_steering (s : State) (t : Timer) : (s.setCycleTimer t).steering = s.steering := rfl
@[simp] theorem State.setCycleTimer_joints (s : State) (t : Timer) : (s.setCycleTimer t).joints = s.joints := rfl
@[simp] theorem State.setCycleTimer_brakes (s : State) (t : Timer) : (s.setCycleTimer t).brakes = s.brakes := rfl
@[simp] theorem State.setCycleTimer_levels (s : State) (t : Timer) : (s.setCycleTimer t).levels = s.levels := rfl
@[simp] theorem State.setCycleTimer_kneel (s : State) (t : Timer) : (s.setCycleTimer t).kneel = s.kneel := rfl
@[simp] theorem State.setCycleTimer_doors (s : State) (t : Timer) : (s.setCycleTimer t).doors = s.doors := rfl
@[simp] theorem State.setCycleTimer_echoes (s : State) (t : Timer) : (s.setCycleTimer t).echoes = s.echoes := rfl
@[simp] theorem State.setCycleTimer_tables (s : State) (t : Timer) : (s.setCycleTimer t).tables = s.tables := rfl
@[simp] theorem State.setCycleTimer_agent (s : State) (t : Timer) : (s.setCycleTimer t).agent = s.agent := rfl
@[simp] theorem State.setCycleTimer_orderCount (s : State) (t : Timer) : (s.setCycleTimer t).orderCount = s.orderCount := rfl
@[simp] theorem State.setCycleTimer_pending (s : State) (t : Timer) : (s.setCycleTimer t).pending = s.pending := rfl
@[simp] theorem State.setCycleTimer_path_timer (s : State) (t : Timer) : (s.setCycleTimer t).path.cycle.timer = t := rfl
@[simp] theorem State.setCycleTimer_path_sync (s : State) (t : Timer) : (s.setCycleTimer t).path.cycle.sync = s.path.cycle.sync := rfl
@[simp] theorem State.setCycleTimer_path_syncPosted (s : State) (t : Timer) : (s.setCycleTimer t).path.cycle.syncPosted = s.path.cycle.syncPosted := rfl
@[simp] theorem State.setCycleTimer_path_entries (s : State) (t : Timer) : (s.setCycleTimer t).path.entries = s.path.entries := rfl
@[simp] theorem State.setCycleTimer_path_faults (s : State) (t : Timer) : (s.setCycleTimer t).path.faults = s.path.faults := rfl

/-! ## postReason -/

@[simp] theorem State.postReason_node (s : State) (m : Reason) : (s.postReason m).node = s.node := rfl
@[simp] theorem State.postReason_ports (s : State) (m : Reason) : (s.postReason m).ports = s.ports := rfl
@[simp] theorem State.postReason_path (s : State) (m : Reason) : (s.postReason m).path = s.path := rfl
@[simp] theorem State.postReason_slots (s : State) (m : Reason) : (s.postReason m).slots = s.slots := rfl
@[simp] theorem State.postReason_track (s : State) (m : Reason) : (s.postReason m).track = s.track := rfl
@[simp] theorem State.postReason_steering (s : State) (m : Reason) : (s.postReason m).steering = s.steering := rfl
@[simp] theorem State.postReason_joints (s : State) (m : Reason) : (s.postReason m).joints = s.joints := rfl
@[simp] theorem State.postReason_brakes (s : State) (m : Reason) : (s.postReason m).brakes = s.brakes := rfl
@[simp] theorem State.postReason_levels (s : State) (m : Reason) : (s.postReason m).levels = s.levels := rfl
@[simp] theorem State.postReason_kneel (s : State) (m : Reason) : (s.postReason m).kneel = s.kneel := rfl
@[simp] theorem State.postReason_doors (s : State) (m : Reason) : (s.postReason m).doors = s.doors := rfl
@[simp] theorem State.postReason_echoes (s : State) (m : Reason) : (s.postReason m).echoes = s.echoes := rfl
@[simp] theorem State.postReason_tables (s : State) (m : Reason) : (s.postReason m).tables = s.tables := rfl
@[simp] theorem State.postReason_agent (s : State) (m : Reason) : (s.postReason m).agent = s.agent := rfl
@[simp] theorem State.postReason_orderCount (s : State) (m : Reason) : (s.postReason m).orderCount = s.orderCount := rfl
@[simp] theorem State.postReason_pending (s : State) (m : Reason) : (s.postReason m).pending = s.pending := rfl
@[simp] theorem State.postReason_board_haltSet (s : State) (m : Reason) : (s.postReason m).board.haltSet = s.board.haltSet.put m true := rfl
@[simp] theorem State.postReason_board_driveInhibit (s : State) (m : Reason) : (s.postReason m).board.driveInhibit = s.board.driveInhibit.put m true := rfl
@[simp] theorem State.postReason_board_haltLatch (s : State) (m : Reason) : (s.postReason m).board.haltLatch = (s.board.haltLatch || s.board.haltSet.isEmpty) := rfl
@[simp] theorem State.postReason_board_haltConfirmed (s : State) (m : Reason) : (s.postReason m).board.haltConfirmed = s.board.haltConfirmed := rfl
@[simp] theorem State.postReason_board_limits (s : State) (m : Reason) : (s.postReason m).board.limits = s.board.limits := rfl
@[simp] theorem State.postReason_board_stretch (s : State) (m : Reason) : (s.postReason m).board.stretch = s.board.stretch := rfl
@[simp] theorem State.postReason_board_faults (s : State) (m : Reason) : (s.postReason m).board.faults = s.board.faults := rfl

/-! ## withdrawReason -/

@[simp] theorem State.withdrawReason_node (s : State) (m : Reason) : (s.withdrawReason m).node = s.node := rfl
@[simp] theorem State.withdrawReason_ports (s : State) (m : Reason) : (s.withdrawReason m).ports = s.ports := rfl
@[simp] theorem State.withdrawReason_path (s : State) (m : Reason) : (s.withdrawReason m).path = s.path := rfl
@[simp] theorem State.withdrawReason_slots (s : State) (m : Reason) : (s.withdrawReason m).slots = s.slots := rfl
@[simp] theorem State.withdrawReason_track (s : State) (m : Reason) : (s.withdrawReason m).track = s.track := rfl
@[simp] theorem State.withdrawReason_steering (s : State) (m : Reason) : (s.withdrawReason m).steering = s.steering := rfl
@[simp] theorem State.withdrawReason_joints (s : State) (m : Reason) : (s.withdrawReason m).joints = s.joints := rfl
@[simp] theorem State.withdrawReason_brakes (s : State) (m : Reason) : (s.withdrawReason m).brakes = s.brakes := rfl
@[simp] theorem State.withdrawReason_levels (s : State) (m : Reason) : (s.withdrawReason m).levels = s.levels := rfl
@[simp] theorem State.withdrawReason_kneel (s : State) (m : Reason) : (s.withdrawReason m).kneel = s.kneel := rfl
@[simp] theorem State.withdrawReason_doors (s : State) (m : Reason) : (s.withdrawReason m).doors = s.doors := rfl
@[simp] theorem State.withdrawReason_echoes (s : State) (m : Reason) : (s.withdrawReason m).echoes = s.echoes := rfl
@[simp] theorem State.withdrawReason_tables (s : State) (m : Reason) : (s.withdrawReason m).tables = s.tables := rfl
@[simp] theorem State.withdrawReason_agent (s : State) (m : Reason) : (s.withdrawReason m).agent = s.agent := rfl
@[simp] theorem State.withdrawReason_orderCount (s : State) (m : Reason) : (s.withdrawReason m).orderCount = s.orderCount := rfl
@[simp] theorem State.withdrawReason_pending (s : State) (m : Reason) : (s.withdrawReason m).pending = s.pending := rfl
@[simp] theorem State.withdrawReason_board_haltSet (s : State) (m : Reason) : (s.withdrawReason m).board.haltSet = s.board.haltSet.put m false := rfl
@[simp] theorem State.withdrawReason_board_driveInhibit (s : State) (m : Reason) : (s.withdrawReason m).board.driveInhibit = s.board.driveInhibit.put m false := rfl
@[simp] theorem State.withdrawReason_board_haltLatch (s : State) (m : Reason) : (s.withdrawReason m).board.haltLatch = s.board.haltLatch := rfl
@[simp] theorem State.withdrawReason_board_haltConfirmed (s : State) (m : Reason) : (s.withdrawReason m).board.haltConfirmed = s.board.haltConfirmed := rfl
@[simp] theorem State.withdrawReason_board_limits (s : State) (m : Reason) : (s.withdrawReason m).board.limits = s.board.limits := rfl
@[simp] theorem State.withdrawReason_board_stretch (s : State) (m : Reason) : (s.withdrawReason m).board.stretch = s.board.stretch := rfl
@[simp] theorem State.withdrawReason_board_faults (s : State) (m : Reason) : (s.withdrawReason m).board.faults = s.board.faults := rfl

/-! ## postLimit -/

@[simp] theorem State.postLimit_node (s : State) (k : LimitKind) : (s.postLimit k).node = s.node := rfl
@[simp] theorem State.postLimit_ports (s : State) (k : LimitKind) : (s.postLimit k).ports = s.ports := rfl
@[simp] theorem State.postLimit_path (s : State) (k : LimitKind) : (s.postLimit k).path = s.path := rfl
@[simp] theorem State.postLimit_slots (s : State) (k : LimitKind) : (s.postLimit k).slots = s.slots := rfl
@[simp] theorem State.postLimit_track (s : State) (k : LimitKind) : (s.postLimit k).track = s.track := rfl
@[simp] theorem State.postLimit_steering (s : State) (k : LimitKind) : (s.postLimit k).steering = s.steering := rfl
@[simp] theorem State.postLimit_joints (s : State) (k : LimitKind) : (s.postLimit k).joints = s.joints := rfl
@[simp] theorem State.postLimit_brakes (s : State) (k : LimitKind) : (s.postLimit k).brakes = s.brakes := rfl
@[simp] theorem State.postLimit_levels (s : State) (k : LimitKind) : (s.postLimit k).levels = s.levels := rfl
@[simp] theorem State.postLimit_kneel (s : State) (k : LimitKind) : (s.postLimit k).kneel = s.kneel := rfl
@[simp] theorem State.postLimit_doors (s : State) (k : LimitKind) : (s.postLimit k).doors = s.doors := rfl
@[simp] theorem State.postLimit_echoes (s : State) (k : LimitKind) : (s.postLimit k).echoes = s.echoes := rfl
@[simp] theorem State.postLimit_tables (s : State) (k : LimitKind) : (s.postLimit k).tables = s.tables := rfl
@[simp] theorem State.postLimit_agent (s : State) (k : LimitKind) : (s.postLimit k).agent = s.agent := rfl
@[simp] theorem State.postLimit_orderCount (s : State) (k : LimitKind) : (s.postLimit k).orderCount = s.orderCount := rfl
@[simp] theorem State.postLimit_pending (s : State) (k : LimitKind) : (s.postLimit k).pending = s.pending := rfl
@[simp] theorem State.postLimit_board_limits (s : State) (k : LimitKind) : (s.postLimit k).board.limits = s.board.limits.set k (some (s.paramNat k.param)) := rfl
@[simp] theorem State.postLimit_board_haltSet (s : State) (k : LimitKind) : (s.postLimit k).board.haltSet = s.board.haltSet := rfl
@[simp] theorem State.postLimit_board_driveInhibit (s : State) (k : LimitKind) : (s.postLimit k).board.driveInhibit = s.board.driveInhibit := rfl
@[simp] theorem State.postLimit_board_haltLatch (s : State) (k : LimitKind) : (s.postLimit k).board.haltLatch = s.board.haltLatch := rfl
@[simp] theorem State.postLimit_board_haltConfirmed (s : State) (k : LimitKind) : (s.postLimit k).board.haltConfirmed = s.board.haltConfirmed := rfl
@[simp] theorem State.postLimit_board_stretch (s : State) (k : LimitKind) : (s.postLimit k).board.stretch = s.board.stretch := rfl
@[simp] theorem State.postLimit_board_faults (s : State) (k : LimitKind) : (s.postLimit k).board.faults = s.board.faults := rfl

/-! ## withdrawLimit -/

@[simp] theorem State.withdrawLimit_node (s : State) (k : LimitKind) : (s.withdrawLimit k).node = s.node := rfl
@[simp] theorem State.withdrawLimit_ports (s : State) (k : LimitKind) : (s.withdrawLimit k).ports = s.ports := rfl
@[simp] theorem State.withdrawLimit_path (s : State) (k : LimitKind) : (s.withdrawLimit k).path = s.path := rfl
@[simp] theorem State.withdrawLimit_slots (s : State) (k : LimitKind) : (s.withdrawLimit k).slots = s.slots := rfl
@[simp] theorem State.withdrawLimit_track (s : State) (k : LimitKind) : (s.withdrawLimit k).track = s.track := rfl
@[simp] theorem State.withdrawLimit_steering (s : State) (k : LimitKind) : (s.withdrawLimit k).steering = s.steering := rfl
@[simp] theorem State.withdrawLimit_joints (s : State) (k : LimitKind) : (s.withdrawLimit k).joints = s.joints := rfl
@[simp] theorem State.withdrawLimit_brakes (s : State) (k : LimitKind) : (s.withdrawLimit k).brakes = s.brakes := rfl
@[simp] theorem State.withdrawLimit_levels (s : State) (k : LimitKind) : (s.withdrawLimit k).levels = s.levels := rfl
@[simp] theorem State.withdrawLimit_kneel (s : State) (k : LimitKind) : (s.withdrawLimit k).kneel = s.kneel := rfl
@[simp] theorem State.withdrawLimit_doors (s : State) (k : LimitKind) : (s.withdrawLimit k).doors = s.doors := rfl
@[simp] theorem State.withdrawLimit_echoes (s : State) (k : LimitKind) : (s.withdrawLimit k).echoes = s.echoes := rfl
@[simp] theorem State.withdrawLimit_tables (s : State) (k : LimitKind) : (s.withdrawLimit k).tables = s.tables := rfl
@[simp] theorem State.withdrawLimit_agent (s : State) (k : LimitKind) : (s.withdrawLimit k).agent = s.agent := rfl
@[simp] theorem State.withdrawLimit_orderCount (s : State) (k : LimitKind) : (s.withdrawLimit k).orderCount = s.orderCount := rfl
@[simp] theorem State.withdrawLimit_pending (s : State) (k : LimitKind) : (s.withdrawLimit k).pending = s.pending := rfl
@[simp] theorem State.withdrawLimit_board_limits (s : State) (k : LimitKind) : (s.withdrawLimit k).board.limits = s.board.limits.set k none := rfl
@[simp] theorem State.withdrawLimit_board_haltSet (s : State) (k : LimitKind) : (s.withdrawLimit k).board.haltSet = s.board.haltSet := rfl
@[simp] theorem State.withdrawLimit_board_driveInhibit (s : State) (k : LimitKind) : (s.withdrawLimit k).board.driveInhibit = s.board.driveInhibit := rfl
@[simp] theorem State.withdrawLimit_board_haltLatch (s : State) (k : LimitKind) : (s.withdrawLimit k).board.haltLatch = s.board.haltLatch := rfl
@[simp] theorem State.withdrawLimit_board_haltConfirmed (s : State) (k : LimitKind) : (s.withdrawLimit k).board.haltConfirmed = s.board.haltConfirmed := rfl
@[simp] theorem State.withdrawLimit_board_stretch (s : State) (k : LimitKind) : (s.withdrawLimit k).board.stretch = s.board.stretch := rfl
@[simp] theorem State.withdrawLimit_board_faults (s : State) (k : LimitKind) : (s.withdrawLimit k).board.faults = s.board.faults := rfl

/-! ## replaceLimits -/

@[simp] theorem State.replaceLimits_node (s : State) : (s.replaceLimits).node = s.node := rfl
@[simp] theorem State.replaceLimits_ports (s : State) : (s.replaceLimits).ports = s.ports := rfl
@[simp] theorem State.replaceLimits_path (s : State) : (s.replaceLimits).path = s.path := rfl
@[simp] theorem State.replaceLimits_slots (s : State) : (s.replaceLimits).slots = s.slots := rfl
@[simp] theorem State.replaceLimits_track (s : State) : (s.replaceLimits).track = s.track := rfl
@[simp] theorem State.replaceLimits_steering (s : State) : (s.replaceLimits).steering = s.steering := rfl
@[simp] theorem State.replaceLimits_joints (s : State) : (s.replaceLimits).joints = s.joints := rfl
@[simp] theorem State.replaceLimits_brakes (s : State) : (s.replaceLimits).brakes = s.brakes := rfl
@[simp] theorem State.replaceLimits_levels (s : State) : (s.replaceLimits).levels = s.levels := rfl
@[simp] theorem State.replaceLimits_kneel (s : State) : (s.replaceLimits).kneel = s.kneel := rfl
@[simp] theorem State.replaceLimits_doors (s : State) : (s.replaceLimits).doors = s.doors := rfl
@[simp] theorem State.replaceLimits_echoes (s : State) : (s.replaceLimits).echoes = s.echoes := rfl
@[simp] theorem State.replaceLimits_tables (s : State) : (s.replaceLimits).tables = s.tables := rfl
@[simp] theorem State.replaceLimits_agent (s : State) : (s.replaceLimits).agent = s.agent := rfl
@[simp] theorem State.replaceLimits_orderCount (s : State) : (s.replaceLimits).orderCount = s.orderCount := rfl
@[simp] theorem State.replaceLimits_pending (s : State) : (s.replaceLimits).pending = s.pending := rfl
@[simp] theorem State.replaceLimits_board_haltSet (s : State) : (s.replaceLimits).board.haltSet = s.board.haltSet := rfl
@[simp] theorem State.replaceLimits_board_driveInhibit (s : State) : (s.replaceLimits).board.driveInhibit = s.board.driveInhibit := rfl
@[simp] theorem State.replaceLimits_board_haltLatch (s : State) : (s.replaceLimits).board.haltLatch = s.board.haltLatch := rfl
@[simp] theorem State.replaceLimits_board_haltConfirmed (s : State) : (s.replaceLimits).board.haltConfirmed = s.board.haltConfirmed := rfl
@[simp] theorem State.replaceLimits_board_stretch (s : State) : (s.replaceLimits).board.stretch = s.board.stretch := rfl
@[simp] theorem State.replaceLimits_board_faults (s : State) : (s.replaceLimits).board.faults = s.board.faults := rfl

/-! ## writeStretch -/

@[simp] theorem State.writeStretch_node (s : State) : (s.writeStretch).node = s.node := rfl
@[simp] theorem State.writeStretch_ports (s : State) : (s.writeStretch).ports = s.ports := rfl
@[simp] theorem State.writeStretch_path (s : State) : (s.writeStretch).path = s.path := rfl
@[simp] theorem State.writeStretch_slots (s : State) : (s.writeStretch).slots = s.slots := rfl
@[simp] theorem State.writeStretch_track (s : State) : (s.writeStretch).track = s.track := rfl
@[simp] theorem State.writeStretch_steering (s : State) : (s.writeStretch).steering = s.steering := rfl
@[simp] theorem State.writeStretch_joints (s : State) : (s.writeStretch).joints = s.joints := rfl
@[simp] theorem State.writeStretch_brakes (s : State) : (s.writeStretch).brakes = s.brakes := rfl
@[simp] theorem State.writeStretch_levels (s : State) : (s.writeStretch).levels = s.levels := rfl
@[simp] theorem State.writeStretch_kneel (s : State) : (s.writeStretch).kneel = s.kneel := rfl
@[simp] theorem State.writeStretch_doors (s : State) : (s.writeStretch).doors = s.doors := rfl
@[simp] theorem State.writeStretch_echoes (s : State) : (s.writeStretch).echoes = s.echoes := rfl
@[simp] theorem State.writeStretch_tables (s : State) : (s.writeStretch).tables = s.tables := rfl
@[simp] theorem State.writeStretch_agent (s : State) : (s.writeStretch).agent = s.agent := rfl
@[simp] theorem State.writeStretch_orderCount (s : State) : (s.writeStretch).orderCount = s.orderCount := rfl
@[simp] theorem State.writeStretch_pending (s : State) : (s.writeStretch).pending = s.pending := rfl
@[simp] theorem State.writeStretch_board_limits (s : State) : (s.writeStretch).board.limits = s.board.limits := rfl
@[simp] theorem State.writeStretch_board_haltSet (s : State) : (s.writeStretch).board.haltSet = s.board.haltSet := rfl
@[simp] theorem State.writeStretch_board_driveInhibit (s : State) : (s.writeStretch).board.driveInhibit = s.board.driveInhibit := rfl
@[simp] theorem State.writeStretch_board_haltLatch (s : State) : (s.writeStretch).board.haltLatch = s.board.haltLatch := rfl
@[simp] theorem State.writeStretch_board_haltConfirmed (s : State) : (s.writeStretch).board.haltConfirmed = s.board.haltConfirmed := rfl
@[simp] theorem State.writeStretch_board_faults (s : State) : (s.writeStretch).board.faults = s.board.faults := rfl

/-! ## setRear -/

@[simp] theorem State.setRear_node (s : State) (r : Rear) (x : RearRecord) : (s.setRear r x).node = s.node := rfl
@[simp] theorem State.setRear_ports (s : State) (r : Rear) (x : RearRecord) : (s.setRear r x).ports = s.ports := rfl
@[simp] theorem State.setRear_path (s : State) (r : Rear) (x : RearRecord) : (s.setRear r x).path = s.path := rfl
@[simp] theorem State.setRear_slots (s : State) (r : Rear) (x : RearRecord) : (s.setRear r x).slots = s.slots := rfl
@[simp] theorem State.setRear_board (s : State) (r : Rear) (x : RearRecord) : (s.setRear r x).board = s.board := rfl
@[simp] theorem State.setRear_track (s : State) (r : Rear) (x : RearRecord) : (s.setRear r x).track = s.track := rfl
@[simp] theorem State.setRear_joints (s : State) (r : Rear) (x : RearRecord) : (s.setRear r x).joints = s.joints := rfl
@[simp] theorem State.setRear_brakes (s : State) (r : Rear) (x : RearRecord) : (s.setRear r x).brakes = s.brakes := rfl
@[simp] theorem State.setRear_levels (s : State) (r : Rear) (x : RearRecord) : (s.setRear r x).levels = s.levels := rfl
@[simp] theorem State.setRear_kneel (s : State) (r : Rear) (x : RearRecord) : (s.setRear r x).kneel = s.kneel := rfl
@[simp] theorem State.setRear_doors (s : State) (r : Rear) (x : RearRecord) : (s.setRear r x).doors = s.doors := rfl
@[simp] theorem State.setRear_echoes (s : State) (r : Rear) (x : RearRecord) : (s.setRear r x).echoes = s.echoes := rfl
@[simp] theorem State.setRear_tables (s : State) (r : Rear) (x : RearRecord) : (s.setRear r x).tables = s.tables := rfl
@[simp] theorem State.setRear_agent (s : State) (r : Rear) (x : RearRecord) : (s.setRear r x).agent = s.agent := rfl
@[simp] theorem State.setRear_orderCount (s : State) (r : Rear) (x : RearRecord) : (s.setRear r x).orderCount = s.orderCount := rfl
@[simp] theorem State.setRear_pending (s : State) (r : Rear) (x : RearRecord) : (s.setRear r x).pending = s.pending := rfl
@[simp] theorem State.setRear_steering_rear (s : State) (r : Rear) (x : RearRecord) : (s.setRear r x).steering.rear = s.steering.rear.set r x := rfl
@[simp] theorem State.setRear_steering_limiter (s : State) (r : Rear) (x : RearRecord) : (s.setRear r x).steering.limiter = s.steering.limiter := rfl
@[simp] theorem State.setRear_steering_faults (s : State) (r : Rear) (x : RearRecord) : (s.setRear r x).steering.faults = s.steering.faults := rfl

/-! ## latchSteering -/

@[simp] theorem State.latchSteering_node (s : State) (f : SteeringFaults → SteeringFaults) : (s.latchSteering f).node = s.node := rfl
@[simp] theorem State.latchSteering_ports (s : State) (f : SteeringFaults → SteeringFaults) : (s.latchSteering f).ports = s.ports := rfl
@[simp] theorem State.latchSteering_path (s : State) (f : SteeringFaults → SteeringFaults) : (s.latchSteering f).path = s.path := rfl
@[simp] theorem State.latchSteering_slots (s : State) (f : SteeringFaults → SteeringFaults) : (s.latchSteering f).slots = s.slots := rfl
@[simp] theorem State.latchSteering_board (s : State) (f : SteeringFaults → SteeringFaults) : (s.latchSteering f).board = s.board := rfl
@[simp] theorem State.latchSteering_track (s : State) (f : SteeringFaults → SteeringFaults) : (s.latchSteering f).track = s.track := rfl
@[simp] theorem State.latchSteering_joints (s : State) (f : SteeringFaults → SteeringFaults) : (s.latchSteering f).joints = s.joints := rfl
@[simp] theorem State.latchSteering_brakes (s : State) (f : SteeringFaults → SteeringFaults) : (s.latchSteering f).brakes = s.brakes := rfl
@[simp] theorem State.latchSteering_levels (s : State) (f : SteeringFaults → SteeringFaults) : (s.latchSteering f).levels = s.levels := rfl
@[simp] theorem State.latchSteering_kneel (s : State) (f : SteeringFaults → SteeringFaults) : (s.latchSteering f).kneel = s.kneel := rfl
@[simp] theorem State.latchSteering_doors (s : State) (f : SteeringFaults → SteeringFaults) : (s.latchSteering f).doors = s.doors := rfl
@[simp] theorem State.latchSteering_echoes (s : State) (f : SteeringFaults → SteeringFaults) : (s.latchSteering f).echoes = s.echoes := rfl
@[simp] theorem State.latchSteering_tables (s : State) (f : SteeringFaults → SteeringFaults) : (s.latchSteering f).tables = s.tables := rfl
@[simp] theorem State.latchSteering_agent (s : State) (f : SteeringFaults → SteeringFaults) : (s.latchSteering f).agent = s.agent := rfl
@[simp] theorem State.latchSteering_orderCount (s : State) (f : SteeringFaults → SteeringFaults) : (s.latchSteering f).orderCount = s.orderCount := rfl
@[simp] theorem State.latchSteering_pending (s : State) (f : SteeringFaults → SteeringFaults) : (s.latchSteering f).pending = s.pending := rfl
@[simp] theorem State.latchSteering_steering_rear (s : State) (f : SteeringFaults → SteeringFaults) : (s.latchSteering f).steering.rear = s.steering.rear := rfl
@[simp] theorem State.latchSteering_steering_limiter (s : State) (f : SteeringFaults → SteeringFaults) : (s.latchSteering f).steering.limiter = s.steering.limiter := rfl
@[simp] theorem State.latchSteering_steering_faults (s : State) (f : SteeringFaults → SteeringFaults) : (s.latchSteering f).steering.faults = f s.steering.faults := rfl

/-! ## clearLastAngles -/

@[simp] theorem State.clearLastAngles_node (s : State) : (s.clearLastAngles).node = s.node := rfl
@[simp] theorem State.clearLastAngles_ports (s : State) : (s.clearLastAngles).ports = s.ports := rfl
@[simp] theorem State.clearLastAngles_path (s : State) : (s.clearLastAngles).path = s.path := rfl
@[simp] theorem State.clearLastAngles_slots (s : State) : (s.clearLastAngles).slots = s.slots := rfl
@[simp] theorem State.clearLastAngles_board (s : State) : (s.clearLastAngles).board = s.board := rfl
@[simp] theorem State.clearLastAngles_track (s : State) : (s.clearLastAngles).track = s.track := rfl
@[simp] theorem State.clearLastAngles_joints (s : State) : (s.clearLastAngles).joints = s.joints := rfl
@[simp] theorem State.clearLastAngles_brakes (s : State) : (s.clearLastAngles).brakes = s.brakes := rfl
@[simp] theorem State.clearLastAngles_levels (s : State) : (s.clearLastAngles).levels = s.levels := rfl
@[simp] theorem State.clearLastAngles_kneel (s : State) : (s.clearLastAngles).kneel = s.kneel := rfl
@[simp] theorem State.clearLastAngles_doors (s : State) : (s.clearLastAngles).doors = s.doors := rfl
@[simp] theorem State.clearLastAngles_echoes (s : State) : (s.clearLastAngles).echoes = s.echoes := rfl
@[simp] theorem State.clearLastAngles_tables (s : State) : (s.clearLastAngles).tables = s.tables := rfl
@[simp] theorem State.clearLastAngles_agent (s : State) : (s.clearLastAngles).agent = s.agent := rfl
@[simp] theorem State.clearLastAngles_orderCount (s : State) : (s.clearLastAngles).orderCount = s.orderCount := rfl
@[simp] theorem State.clearLastAngles_pending (s : State) : (s.clearLastAngles).pending = s.pending := rfl
@[simp] theorem State.clearLastAngles_steering_limiter (s : State) : (s.clearLastAngles).steering.limiter = s.steering.limiter := rfl
@[simp] theorem State.clearLastAngles_steering_faults (s : State) : (s.clearLastAngles).steering.faults = s.steering.faults := rfl

/-! ## latchBrake -/

@[simp] theorem State.latchBrake_node (s : State) (f : BrakeFaults → BrakeFaults) : (s.latchBrake f).node = s.node := rfl
@[simp] theorem State.latchBrake_ports (s : State) (f : BrakeFaults → BrakeFaults) : (s.latchBrake f).ports = s.ports := rfl
@[simp] theorem State.latchBrake_path (s : State) (f : BrakeFaults → BrakeFaults) : (s.latchBrake f).path = s.path := rfl
@[simp] theorem State.latchBrake_slots (s : State) (f : BrakeFaults → BrakeFaults) : (s.latchBrake f).slots = s.slots := rfl
@[simp] theorem State.latchBrake_board (s : State) (f : BrakeFaults → BrakeFaults) : (s.latchBrake f).board = s.board := rfl
@[simp] theorem State.latchBrake_track (s : State) (f : BrakeFaults → BrakeFaults) : (s.latchBrake f).track = s.track := rfl
@[simp] theorem State.latchBrake_steering (s : State) (f : BrakeFaults → BrakeFaults) : (s.latchBrake f).steering = s.steering := rfl
@[simp] theorem State.latchBrake_joints (s : State) (f : BrakeFaults → BrakeFaults) : (s.latchBrake f).joints = s.joints := rfl
@[simp] theorem State.latchBrake_levels (s : State) (f : BrakeFaults → BrakeFaults) : (s.latchBrake f).levels = s.levels := rfl
@[simp] theorem State.latchBrake_kneel (s : State) (f : BrakeFaults → BrakeFaults) : (s.latchBrake f).kneel = s.kneel := rfl
@[simp] theorem State.latchBrake_doors (s : State) (f : BrakeFaults → BrakeFaults) : (s.latchBrake f).doors = s.doors := rfl
@[simp] theorem State.latchBrake_echoes (s : State) (f : BrakeFaults → BrakeFaults) : (s.latchBrake f).echoes = s.echoes := rfl
@[simp] theorem State.latchBrake_tables (s : State) (f : BrakeFaults → BrakeFaults) : (s.latchBrake f).tables = s.tables := rfl
@[simp] theorem State.latchBrake_agent (s : State) (f : BrakeFaults → BrakeFaults) : (s.latchBrake f).agent = s.agent := rfl
@[simp] theorem State.latchBrake_orderCount (s : State) (f : BrakeFaults → BrakeFaults) : (s.latchBrake f).orderCount = s.orderCount := rfl
@[simp] theorem State.latchBrake_pending (s : State) (f : BrakeFaults → BrakeFaults) : (s.latchBrake f).pending = s.pending := rfl
@[simp] theorem State.latchBrake_brakes_sources (s : State) (f : BrakeFaults → BrakeFaults) : (s.latchBrake f).brakes.sources = s.brakes.sources := rfl
@[simp] theorem State.latchBrake_brakes_snapshot (s : State) (f : BrakeFaults → BrakeFaults) : (s.latchBrake f).brakes.snapshot = s.brakes.snapshot := rfl
@[simp] theorem State.latchBrake_brakes_faults (s : State) (f : BrakeFaults → BrakeFaults) : (s.latchBrake f).brakes.faults = f s.brakes.faults := rfl

/-! ## recordLoads -/

@[simp] theorem State.recordLoads_node (s : State) (x : PerAxle (Nat × LoadSource)) : (s.recordLoads x).node = s.node := rfl
@[simp] theorem State.recordLoads_ports (s : State) (x : PerAxle (Nat × LoadSource)) : (s.recordLoads x).ports = s.ports := rfl
@[simp] theorem State.recordLoads_path (s : State) (x : PerAxle (Nat × LoadSource)) : (s.recordLoads x).path = s.path := rfl
@[simp] theorem State.recordLoads_slots (s : State) (x : PerAxle (Nat × LoadSource)) : (s.recordLoads x).slots = s.slots := rfl
@[simp] theorem State.recordLoads_board (s : State) (x : PerAxle (Nat × LoadSource)) : (s.recordLoads x).board = s.board := rfl
@[simp] theorem State.recordLoads_track (s : State) (x : PerAxle (Nat × LoadSource)) : (s.recordLoads x).track = s.track := rfl
@[simp] theorem State.recordLoads_steering (s : State) (x : PerAxle (Nat × LoadSource)) : (s.recordLoads x).steering = s.steering := rfl
@[simp] theorem State.recordLoads_joints (s : State) (x : PerAxle (Nat × LoadSource)) : (s.recordLoads x).joints = s.joints := rfl
@[simp] theorem State.recordLoads_levels (s : State) (x : PerAxle (Nat × LoadSource)) : (s.recordLoads x).levels = s.levels := rfl
@[simp] theorem State.recordLoads_kneel (s : State) (x : PerAxle (Nat × LoadSource)) : (s.recordLoads x).kneel = s.kneel := rfl
@[simp] theorem State.recordLoads_doors (s : State) (x : PerAxle (Nat × LoadSource)) : (s.recordLoads x).doors = s.doors := rfl
@[simp] theorem State.recordLoads_echoes (s : State) (x : PerAxle (Nat × LoadSource)) : (s.recordLoads x).echoes = s.echoes := rfl
@[simp] theorem State.recordLoads_tables (s : State) (x : PerAxle (Nat × LoadSource)) : (s.recordLoads x).tables = s.tables := rfl
@[simp] theorem State.recordLoads_agent (s : State) (x : PerAxle (Nat × LoadSource)) : (s.recordLoads x).agent = s.agent := rfl
@[simp] theorem State.recordLoads_orderCount (s : State) (x : PerAxle (Nat × LoadSource)) : (s.recordLoads x).orderCount = s.orderCount := rfl
@[simp] theorem State.recordLoads_pending (s : State) (x : PerAxle (Nat × LoadSource)) : (s.recordLoads x).pending = s.pending := rfl
@[simp] theorem State.recordLoads_brakes_snapshot (s : State) (x : PerAxle (Nat × LoadSource)) : (s.recordLoads x).brakes.snapshot = s.brakes.snapshot := rfl

/-! ## clearSnapshot -/

@[simp] theorem State.clearSnapshot_node (s : State) : (s.clearSnapshot).node = s.node := rfl
@[simp] theorem State.clearSnapshot_ports (s : State) : (s.clearSnapshot).ports = s.ports := rfl
@[simp] theorem State.clearSnapshot_path (s : State) : (s.clearSnapshot).path = s.path := rfl
@[simp] theorem State.clearSnapshot_slots (s : State) : (s.clearSnapshot).slots = s.slots := rfl
@[simp] theorem State.clearSnapshot_board (s : State) : (s.clearSnapshot).board = s.board := rfl
@[simp] theorem State.clearSnapshot_track (s : State) : (s.clearSnapshot).track = s.track := rfl
@[simp] theorem State.clearSnapshot_steering (s : State) : (s.clearSnapshot).steering = s.steering := rfl
@[simp] theorem State.clearSnapshot_joints (s : State) : (s.clearSnapshot).joints = s.joints := rfl
@[simp] theorem State.clearSnapshot_levels (s : State) : (s.clearSnapshot).levels = s.levels := rfl
@[simp] theorem State.clearSnapshot_kneel (s : State) : (s.clearSnapshot).kneel = s.kneel := rfl
@[simp] theorem State.clearSnapshot_doors (s : State) : (s.clearSnapshot).doors = s.doors := rfl
@[simp] theorem State.clearSnapshot_echoes (s : State) : (s.clearSnapshot).echoes = s.echoes := rfl
@[simp] theorem State.clearSnapshot_tables (s : State) : (s.clearSnapshot).tables = s.tables := rfl
@[simp] theorem State.clearSnapshot_agent (s : State) : (s.clearSnapshot).agent = s.agent := rfl
@[simp] theorem State.clearSnapshot_orderCount (s : State) : (s.clearSnapshot).orderCount = s.orderCount := rfl
@[simp] theorem State.clearSnapshot_pending (s : State) : (s.clearSnapshot).pending = s.pending := rfl
@[simp] theorem State.clearSnapshot_brakes_sources (s : State) : (s.clearSnapshot).brakes.sources = s.brakes.sources := rfl
@[simp] theorem State.clearSnapshot_brakes_snapshot (s : State) : (s.clearSnapshot).brakes.snapshot = none := rfl
@[simp] theorem State.clearSnapshot_brakes_faults (s : State) : (s.clearSnapshot).brakes.faults = s.brakes.faults := rfl

/-! ## setCorner -/

@[simp] theorem State.setCorner_node (s : State) (c : Corner) (r : CornerRecord) : (s.setCorner c r).node = s.node := rfl
@[simp] theorem State.setCorner_ports (s : State) (c : Corner) (r : CornerRecord) : (s.setCorner c r).ports = s.ports := rfl
@[simp] theorem State.setCorner_path (s : State) (c : Corner) (r : CornerRecord) : (s.setCorner c r).path = s.path := rfl
@[simp] theorem State.setCorner_slots (s : State) (c : Corner) (r : CornerRecord) : (s.setCorner c r).slots = s.slots := rfl
@[simp] theorem State.setCorner_board (s : State) (c : Corner) (r : CornerRecord) : (s.setCorner c r).board = s.board := rfl
@[simp] theorem State.setCorner_track (s : State) (c : Corner) (r : CornerRecord) : (s.setCorner c r).track = s.track := rfl
@[simp] theorem State.setCorner_steering (s : State) (c : Corner) (r : CornerRecord) : (s.setCorner c r).steering = s.steering := rfl
@[simp] theorem State.setCorner_joints (s : State) (c : Corner) (r : CornerRecord) : (s.setCorner c r).joints = s.joints := rfl
@[simp] theorem State.setCorner_brakes (s : State) (c : Corner) (r : CornerRecord) : (s.setCorner c r).brakes = s.brakes := rfl
@[simp] theorem State.setCorner_kneel (s : State) (c : Corner) (r : CornerRecord) : (s.setCorner c r).kneel = s.kneel := rfl
@[simp] theorem State.setCorner_doors (s : State) (c : Corner) (r : CornerRecord) : (s.setCorner c r).doors = s.doors := rfl
@[simp] theorem State.setCorner_echoes (s : State) (c : Corner) (r : CornerRecord) : (s.setCorner c r).echoes = s.echoes := rfl
@[simp] theorem State.setCorner_tables (s : State) (c : Corner) (r : CornerRecord) : (s.setCorner c r).tables = s.tables := rfl
@[simp] theorem State.setCorner_agent (s : State) (c : Corner) (r : CornerRecord) : (s.setCorner c r).agent = s.agent := rfl
@[simp] theorem State.setCorner_orderCount (s : State) (c : Corner) (r : CornerRecord) : (s.setCorner c r).orderCount = s.orderCount := rfl
@[simp] theorem State.setCorner_pending (s : State) (c : Corner) (r : CornerRecord) : (s.setCorner c r).pending = s.pending := rfl
@[simp] theorem State.setCorner_levels_corners (s : State) (c : Corner) (r : CornerRecord) : (s.setCorner c r).levels.corners = s.levels.corners.set c r := rfl
@[simp] theorem State.setCorner_levels_ride (s : State) (c : Corner) (r : CornerRecord) : (s.setCorner c r).levels.ride = s.levels.ride := rfl
@[simp] theorem State.setCorner_levels_faults (s : State) (c : Corner) (r : CornerRecord) : (s.setCorner c r).levels.faults = s.levels.faults := rfl

/-! ## mapCorners -/

@[simp] theorem State.mapCorners_node (s : State) (f : Corner → CornerRecord → CornerRecord) : (s.mapCorners f).node = s.node := rfl
@[simp] theorem State.mapCorners_ports (s : State) (f : Corner → CornerRecord → CornerRecord) : (s.mapCorners f).ports = s.ports := rfl
@[simp] theorem State.mapCorners_path (s : State) (f : Corner → CornerRecord → CornerRecord) : (s.mapCorners f).path = s.path := rfl
@[simp] theorem State.mapCorners_slots (s : State) (f : Corner → CornerRecord → CornerRecord) : (s.mapCorners f).slots = s.slots := rfl
@[simp] theorem State.mapCorners_board (s : State) (f : Corner → CornerRecord → CornerRecord) : (s.mapCorners f).board = s.board := rfl
@[simp] theorem State.mapCorners_track (s : State) (f : Corner → CornerRecord → CornerRecord) : (s.mapCorners f).track = s.track := rfl
@[simp] theorem State.mapCorners_steering (s : State) (f : Corner → CornerRecord → CornerRecord) : (s.mapCorners f).steering = s.steering := rfl
@[simp] theorem State.mapCorners_joints (s : State) (f : Corner → CornerRecord → CornerRecord) : (s.mapCorners f).joints = s.joints := rfl
@[simp] theorem State.mapCorners_brakes (s : State) (f : Corner → CornerRecord → CornerRecord) : (s.mapCorners f).brakes = s.brakes := rfl
@[simp] theorem State.mapCorners_kneel (s : State) (f : Corner → CornerRecord → CornerRecord) : (s.mapCorners f).kneel = s.kneel := rfl
@[simp] theorem State.mapCorners_doors (s : State) (f : Corner → CornerRecord → CornerRecord) : (s.mapCorners f).doors = s.doors := rfl
@[simp] theorem State.mapCorners_echoes (s : State) (f : Corner → CornerRecord → CornerRecord) : (s.mapCorners f).echoes = s.echoes := rfl
@[simp] theorem State.mapCorners_tables (s : State) (f : Corner → CornerRecord → CornerRecord) : (s.mapCorners f).tables = s.tables := rfl
@[simp] theorem State.mapCorners_agent (s : State) (f : Corner → CornerRecord → CornerRecord) : (s.mapCorners f).agent = s.agent := rfl
@[simp] theorem State.mapCorners_orderCount (s : State) (f : Corner → CornerRecord → CornerRecord) : (s.mapCorners f).orderCount = s.orderCount := rfl
@[simp] theorem State.mapCorners_pending (s : State) (f : Corner → CornerRecord → CornerRecord) : (s.mapCorners f).pending = s.pending := rfl
@[simp] theorem State.mapCorners_levels_ride (s : State) (f : Corner → CornerRecord → CornerRecord) : (s.mapCorners f).levels.ride = s.levels.ride := rfl
@[simp] theorem State.mapCorners_levels_faults (s : State) (f : Corner → CornerRecord → CornerRecord) : (s.mapCorners f).levels.faults = s.levels.faults := rfl

/-! ## latchLevel -/

@[simp] theorem State.latchLevel_node (s : State) (f : LevelFaults → LevelFaults) : (s.latchLevel f).node = s.node := rfl
@[simp] theorem State.latchLevel_ports (s : State) (f : LevelFaults → LevelFaults) : (s.latchLevel f).ports = s.ports := rfl
@[simp] theorem State.latchLevel_path (s : State) (f : LevelFaults → LevelFaults) : (s.latchLevel f).path = s.path := rfl
@[simp] theorem State.latchLevel_slots (s : State) (f : LevelFaults → LevelFaults) : (s.latchLevel f).slots = s.slots := rfl
@[simp] theorem State.latchLevel_board (s : State) (f : LevelFaults → LevelFaults) : (s.latchLevel f).board = s.board := rfl
@[simp] theorem State.latchLevel_track (s : State) (f : LevelFaults → LevelFaults) : (s.latchLevel f).track = s.track := rfl
@[simp] theorem State.latchLevel_steering (s : State) (f : LevelFaults → LevelFaults) : (s.latchLevel f).steering = s.steering := rfl
@[simp] theorem State.latchLevel_joints (s : State) (f : LevelFaults → LevelFaults) : (s.latchLevel f).joints = s.joints := rfl
@[simp] theorem State.latchLevel_brakes (s : State) (f : LevelFaults → LevelFaults) : (s.latchLevel f).brakes = s.brakes := rfl
@[simp] theorem State.latchLevel_kneel (s : State) (f : LevelFaults → LevelFaults) : (s.latchLevel f).kneel = s.kneel := rfl
@[simp] theorem State.latchLevel_doors (s : State) (f : LevelFaults → LevelFaults) : (s.latchLevel f).doors = s.doors := rfl
@[simp] theorem State.latchLevel_echoes (s : State) (f : LevelFaults → LevelFaults) : (s.latchLevel f).echoes = s.echoes := rfl
@[simp] theorem State.latchLevel_tables (s : State) (f : LevelFaults → LevelFaults) : (s.latchLevel f).tables = s.tables := rfl
@[simp] theorem State.latchLevel_agent (s : State) (f : LevelFaults → LevelFaults) : (s.latchLevel f).agent = s.agent := rfl
@[simp] theorem State.latchLevel_orderCount (s : State) (f : LevelFaults → LevelFaults) : (s.latchLevel f).orderCount = s.orderCount := rfl
@[simp] theorem State.latchLevel_pending (s : State) (f : LevelFaults → LevelFaults) : (s.latchLevel f).pending = s.pending := rfl
@[simp] theorem State.latchLevel_levels_corners (s : State) (f : LevelFaults → LevelFaults) : (s.latchLevel f).levels.corners = s.levels.corners := rfl
@[simp] theorem State.latchLevel_levels_ride (s : State) (f : LevelFaults → LevelFaults) : (s.latchLevel f).levels.ride = s.levels.ride := rfl
@[simp] theorem State.latchLevel_levels_faults (s : State) (f : LevelFaults → LevelFaults) : (s.latchLevel f).levels.faults = f s.levels.faults := rfl

/-! ## setKneel -/

@[simp] theorem State.setKneel_node (s : State) (f : Kneel → Kneel) : (s.setKneel f).node = s.node := rfl
@[simp] theorem State.setKneel_ports (s : State) (f : Kneel → Kneel) : (s.setKneel f).ports = s.ports := rfl
@[simp] theorem State.setKneel_path (s : State) (f : Kneel → Kneel) : (s.setKneel f).path = s.path := rfl
@[simp] theorem State.setKneel_slots (s : State) (f : Kneel → Kneel) : (s.setKneel f).slots = s.slots := rfl
@[simp] theorem State.setKneel_board (s : State) (f : Kneel → Kneel) : (s.setKneel f).board = s.board := rfl
@[simp] theorem State.setKneel_track (s : State) (f : Kneel → Kneel) : (s.setKneel f).track = s.track := rfl
@[simp] theorem State.setKneel_steering (s : State) (f : Kneel → Kneel) : (s.setKneel f).steering = s.steering := rfl
@[simp] theorem State.setKneel_joints (s : State) (f : Kneel → Kneel) : (s.setKneel f).joints = s.joints := rfl
@[simp] theorem State.setKneel_brakes (s : State) (f : Kneel → Kneel) : (s.setKneel f).brakes = s.brakes := rfl
@[simp] theorem State.setKneel_levels (s : State) (f : Kneel → Kneel) : (s.setKneel f).levels = s.levels := rfl
@[simp] theorem State.setKneel_doors (s : State) (f : Kneel → Kneel) : (s.setKneel f).doors = s.doors := rfl
@[simp] theorem State.setKneel_echoes (s : State) (f : Kneel → Kneel) : (s.setKneel f).echoes = s.echoes := rfl
@[simp] theorem State.setKneel_tables (s : State) (f : Kneel → Kneel) : (s.setKneel f).tables = s.tables := rfl
@[simp] theorem State.setKneel_agent (s : State) (f : Kneel → Kneel) : (s.setKneel f).agent = s.agent := rfl
@[simp] theorem State.setKneel_orderCount (s : State) (f : Kneel → Kneel) : (s.setKneel f).orderCount = s.orderCount := rfl
@[simp] theorem State.setKneel_pending (s : State) (f : Kneel → Kneel) : (s.setKneel f).pending = s.pending := rfl
@[simp] theorem State.setKneel_kneel (s : State) (f : Kneel → Kneel) : (s.setKneel f).kneel = f s.kneel := rfl

/-! ## latchKneel -/

@[simp] theorem State.latchKneel_node (s : State) (f : KneelFaults → KneelFaults) : (s.latchKneel f).node = s.node := rfl
@[simp] theorem State.latchKneel_ports (s : State) (f : KneelFaults → KneelFaults) : (s.latchKneel f).ports = s.ports := rfl
@[simp] theorem State.latchKneel_path (s : State) (f : KneelFaults → KneelFaults) : (s.latchKneel f).path = s.path := rfl
@[simp] theorem State.latchKneel_slots (s : State) (f : KneelFaults → KneelFaults) : (s.latchKneel f).slots = s.slots := rfl
@[simp] theorem State.latchKneel_board (s : State) (f : KneelFaults → KneelFaults) : (s.latchKneel f).board = s.board := rfl
@[simp] theorem State.latchKneel_track (s : State) (f : KneelFaults → KneelFaults) : (s.latchKneel f).track = s.track := rfl
@[simp] theorem State.latchKneel_steering (s : State) (f : KneelFaults → KneelFaults) : (s.latchKneel f).steering = s.steering := rfl
@[simp] theorem State.latchKneel_joints (s : State) (f : KneelFaults → KneelFaults) : (s.latchKneel f).joints = s.joints := rfl
@[simp] theorem State.latchKneel_brakes (s : State) (f : KneelFaults → KneelFaults) : (s.latchKneel f).brakes = s.brakes := rfl
@[simp] theorem State.latchKneel_levels (s : State) (f : KneelFaults → KneelFaults) : (s.latchKneel f).levels = s.levels := rfl
@[simp] theorem State.latchKneel_doors (s : State) (f : KneelFaults → KneelFaults) : (s.latchKneel f).doors = s.doors := rfl
@[simp] theorem State.latchKneel_echoes (s : State) (f : KneelFaults → KneelFaults) : (s.latchKneel f).echoes = s.echoes := rfl
@[simp] theorem State.latchKneel_tables (s : State) (f : KneelFaults → KneelFaults) : (s.latchKneel f).tables = s.tables := rfl
@[simp] theorem State.latchKneel_agent (s : State) (f : KneelFaults → KneelFaults) : (s.latchKneel f).agent = s.agent := rfl
@[simp] theorem State.latchKneel_orderCount (s : State) (f : KneelFaults → KneelFaults) : (s.latchKneel f).orderCount = s.orderCount := rfl
@[simp] theorem State.latchKneel_pending (s : State) (f : KneelFaults → KneelFaults) : (s.latchKneel f).pending = s.pending := rfl
@[simp] theorem State.latchKneel_kneel_state (s : State) (f : KneelFaults → KneelFaults) : (s.latchKneel f).kneel.state = s.kneel.state := rfl
@[simp] theorem State.latchKneel_kneel_armTimer (s : State) (f : KneelFaults → KneelFaults) : (s.latchKneel f).kneel.armTimer = s.kneel.armTimer := rfl
@[simp] theorem State.latchKneel_kneel_deadline (s : State) (f : KneelFaults → KneelFaults) : (s.latchKneel f).kneel.deadline = s.kneel.deadline := rfl
@[simp] theorem State.latchKneel_kneel_faultPosted (s : State) (f : KneelFaults → KneelFaults) : (s.latchKneel f).kneel.faultPosted = s.kneel.faultPosted := rfl
@[simp] theorem State.latchKneel_kneel_faults (s : State) (f : KneelFaults → KneelFaults) : (s.latchKneel f).kneel.faults = f s.kneel.faults := rfl

/-! ## setDoor -/

@[simp] theorem State.setDoor_node (s : State) (d : Door) (r : DoorRecord) : (s.setDoor d r).node = s.node := rfl
@[simp] theorem State.setDoor_ports (s : State) (d : Door) (r : DoorRecord) : (s.setDoor d r).ports = s.ports := rfl
@[simp] theorem State.setDoor_path (s : State) (d : Door) (r : DoorRecord) : (s.setDoor d r).path = s.path := rfl
@[simp] theorem State.setDoor_slots (s : State) (d : Door) (r : DoorRecord) : (s.setDoor d r).slots = s.slots := rfl
@[simp] theorem State.setDoor_board (s : State) (d : Door) (r : DoorRecord) : (s.setDoor d r).board = s.board := rfl
@[simp] theorem State.setDoor_track (s : State) (d : Door) (r : DoorRecord) : (s.setDoor d r).track = s.track := rfl
@[simp] theorem State.setDoor_steering (s : State) (d : Door) (r : DoorRecord) : (s.setDoor d r).steering = s.steering := rfl
@[simp] theorem State.setDoor_joints (s : State) (d : Door) (r : DoorRecord) : (s.setDoor d r).joints = s.joints := rfl
@[simp] theorem State.setDoor_brakes (s : State) (d : Door) (r : DoorRecord) : (s.setDoor d r).brakes = s.brakes := rfl
@[simp] theorem State.setDoor_levels (s : State) (d : Door) (r : DoorRecord) : (s.setDoor d r).levels = s.levels := rfl
@[simp] theorem State.setDoor_kneel (s : State) (d : Door) (r : DoorRecord) : (s.setDoor d r).kneel = s.kneel := rfl
@[simp] theorem State.setDoor_echoes (s : State) (d : Door) (r : DoorRecord) : (s.setDoor d r).echoes = s.echoes := rfl
@[simp] theorem State.setDoor_tables (s : State) (d : Door) (r : DoorRecord) : (s.setDoor d r).tables = s.tables := rfl
@[simp] theorem State.setDoor_agent (s : State) (d : Door) (r : DoorRecord) : (s.setDoor d r).agent = s.agent := rfl
@[simp] theorem State.setDoor_orderCount (s : State) (d : Door) (r : DoorRecord) : (s.setDoor d r).orderCount = s.orderCount := rfl
@[simp] theorem State.setDoor_pending (s : State) (d : Door) (r : DoorRecord) : (s.setDoor d r).pending = s.pending := rfl
@[simp] theorem State.setDoor_doors_records (s : State) (d : Door) (r : DoorRecord) : (s.setDoor d r).doors.records = s.doors.records.set d r := rfl
@[simp] theorem State.setDoor_doors_faults (s : State) (d : Door) (r : DoorRecord) : (s.setDoor d r).doors.faults = s.doors.faults := rfl

/-! ## latchDoor -/

@[simp] theorem State.latchDoor_node (s : State) (f : DoorFaults → DoorFaults) : (s.latchDoor f).node = s.node := rfl
@[simp] theorem State.latchDoor_ports (s : State) (f : DoorFaults → DoorFaults) : (s.latchDoor f).ports = s.ports := rfl
@[simp] theorem State.latchDoor_path (s : State) (f : DoorFaults → DoorFaults) : (s.latchDoor f).path = s.path := rfl
@[simp] theorem State.latchDoor_slots (s : State) (f : DoorFaults → DoorFaults) : (s.latchDoor f).slots = s.slots := rfl
@[simp] theorem State.latchDoor_board (s : State) (f : DoorFaults → DoorFaults) : (s.latchDoor f).board = s.board := rfl
@[simp] theorem State.latchDoor_track (s : State) (f : DoorFaults → DoorFaults) : (s.latchDoor f).track = s.track := rfl
@[simp] theorem State.latchDoor_steering (s : State) (f : DoorFaults → DoorFaults) : (s.latchDoor f).steering = s.steering := rfl
@[simp] theorem State.latchDoor_joints (s : State) (f : DoorFaults → DoorFaults) : (s.latchDoor f).joints = s.joints := rfl
@[simp] theorem State.latchDoor_brakes (s : State) (f : DoorFaults → DoorFaults) : (s.latchDoor f).brakes = s.brakes := rfl
@[simp] theorem State.latchDoor_levels (s : State) (f : DoorFaults → DoorFaults) : (s.latchDoor f).levels = s.levels := rfl
@[simp] theorem State.latchDoor_kneel (s : State) (f : DoorFaults → DoorFaults) : (s.latchDoor f).kneel = s.kneel := rfl
@[simp] theorem State.latchDoor_echoes (s : State) (f : DoorFaults → DoorFaults) : (s.latchDoor f).echoes = s.echoes := rfl
@[simp] theorem State.latchDoor_tables (s : State) (f : DoorFaults → DoorFaults) : (s.latchDoor f).tables = s.tables := rfl
@[simp] theorem State.latchDoor_agent (s : State) (f : DoorFaults → DoorFaults) : (s.latchDoor f).agent = s.agent := rfl
@[simp] theorem State.latchDoor_orderCount (s : State) (f : DoorFaults → DoorFaults) : (s.latchDoor f).orderCount = s.orderCount := rfl
@[simp] theorem State.latchDoor_pending (s : State) (f : DoorFaults → DoorFaults) : (s.latchDoor f).pending = s.pending := rfl
@[simp] theorem State.latchDoor_doors_records (s : State) (f : DoorFaults → DoorFaults) : (s.latchDoor f).doors.records = s.doors.records := rfl
@[simp] theorem State.latchDoor_doors_faults (s : State) (f : DoorFaults → DoorFaults) : (s.latchDoor f).doors.faults = f s.doors.faults := rfl

/-! ## clearLatches -/

@[simp] theorem State.clearLatches_node (s : State) (m : PerDoor Bool) : (s.clearLatches m).node = s.node := rfl
@[simp] theorem State.clearLatches_ports (s : State) (m : PerDoor Bool) : (s.clearLatches m).ports = s.ports := rfl
@[simp] theorem State.clearLatches_path (s : State) (m : PerDoor Bool) : (s.clearLatches m).path = s.path := rfl
@[simp] theorem State.clearLatches_slots (s : State) (m : PerDoor Bool) : (s.clearLatches m).slots = s.slots := rfl
@[simp] theorem State.clearLatches_board (s : State) (m : PerDoor Bool) : (s.clearLatches m).board = s.board := rfl
@[simp] theorem State.clearLatches_track (s : State) (m : PerDoor Bool) : (s.clearLatches m).track = s.track := rfl
@[simp] theorem State.clearLatches_steering (s : State) (m : PerDoor Bool) : (s.clearLatches m).steering = s.steering := rfl
@[simp] theorem State.clearLatches_joints (s : State) (m : PerDoor Bool) : (s.clearLatches m).joints = s.joints := rfl
@[simp] theorem State.clearLatches_brakes (s : State) (m : PerDoor Bool) : (s.clearLatches m).brakes = s.brakes := rfl
@[simp] theorem State.clearLatches_levels (s : State) (m : PerDoor Bool) : (s.clearLatches m).levels = s.levels := rfl
@[simp] theorem State.clearLatches_kneel (s : State) (m : PerDoor Bool) : (s.clearLatches m).kneel = s.kneel := rfl
@[simp] theorem State.clearLatches_echoes (s : State) (m : PerDoor Bool) : (s.clearLatches m).echoes = s.echoes := rfl
@[simp] theorem State.clearLatches_tables (s : State) (m : PerDoor Bool) : (s.clearLatches m).tables = s.tables := rfl
@[simp] theorem State.clearLatches_agent (s : State) (m : PerDoor Bool) : (s.clearLatches m).agent = s.agent := rfl
@[simp] theorem State.clearLatches_orderCount (s : State) (m : PerDoor Bool) : (s.clearLatches m).orderCount = s.orderCount := rfl
@[simp] theorem State.clearLatches_pending (s : State) (m : PerDoor Bool) : (s.clearLatches m).pending = s.pending := rfl
@[simp] theorem State.clearLatches_doors_faults (s : State) (m : PerDoor Bool) : (s.clearLatches m).doors.faults = s.doors.faults := rfl

/-! ## setEcho -/

@[simp] theorem State.setEcho_node (s : State) (k : EchoKind) (r : EchoRecord) : (s.setEcho k r).node = s.node := rfl
@[simp] theorem State.setEcho_ports (s : State) (k : EchoKind) (r : EchoRecord) : (s.setEcho k r).ports = s.ports := rfl
@[simp] theorem State.setEcho_path (s : State) (k : EchoKind) (r : EchoRecord) : (s.setEcho k r).path = s.path := rfl
@[simp] theorem State.setEcho_slots (s : State) (k : EchoKind) (r : EchoRecord) : (s.setEcho k r).slots = s.slots := rfl
@[simp] theorem State.setEcho_board (s : State) (k : EchoKind) (r : EchoRecord) : (s.setEcho k r).board = s.board := rfl
@[simp] theorem State.setEcho_track (s : State) (k : EchoKind) (r : EchoRecord) : (s.setEcho k r).track = s.track := rfl
@[simp] theorem State.setEcho_steering (s : State) (k : EchoKind) (r : EchoRecord) : (s.setEcho k r).steering = s.steering := rfl
@[simp] theorem State.setEcho_joints (s : State) (k : EchoKind) (r : EchoRecord) : (s.setEcho k r).joints = s.joints := rfl
@[simp] theorem State.setEcho_brakes (s : State) (k : EchoKind) (r : EchoRecord) : (s.setEcho k r).brakes = s.brakes := rfl
@[simp] theorem State.setEcho_levels (s : State) (k : EchoKind) (r : EchoRecord) : (s.setEcho k r).levels = s.levels := rfl
@[simp] theorem State.setEcho_kneel (s : State) (k : EchoKind) (r : EchoRecord) : (s.setEcho k r).kneel = s.kneel := rfl
@[simp] theorem State.setEcho_doors (s : State) (k : EchoKind) (r : EchoRecord) : (s.setEcho k r).doors = s.doors := rfl
@[simp] theorem State.setEcho_tables (s : State) (k : EchoKind) (r : EchoRecord) : (s.setEcho k r).tables = s.tables := rfl
@[simp] theorem State.setEcho_agent (s : State) (k : EchoKind) (r : EchoRecord) : (s.setEcho k r).agent = s.agent := rfl
@[simp] theorem State.setEcho_orderCount (s : State) (k : EchoKind) (r : EchoRecord) : (s.setEcho k r).orderCount = s.orderCount := rfl
@[simp] theorem State.setEcho_pending (s : State) (k : EchoKind) (r : EchoRecord) : (s.setEcho k r).pending = s.pending := rfl
@[simp] theorem State.setEcho_echoes_records (s : State) (k : EchoKind) (r : EchoRecord) : (s.setEcho k r).echoes.records = s.echoes.records.set k r := rfl
@[simp] theorem State.setEcho_echoes_faults (s : State) (k : EchoKind) (r : EchoRecord) : (s.setEcho k r).echoes.faults = s.echoes.faults := rfl

/-! ## stage -/

@[simp] theorem State.stage_node (s : State) (x : StagedTables) (t : TableName) : (s.stage x t).node = s.node := rfl
@[simp] theorem State.stage_ports (s : State) (x : StagedTables) (t : TableName) : (s.stage x t).ports = s.ports := rfl
@[simp] theorem State.stage_path (s : State) (x : StagedTables) (t : TableName) : (s.stage x t).path = s.path := rfl
@[simp] theorem State.stage_slots (s : State) (x : StagedTables) (t : TableName) : (s.stage x t).slots = s.slots := rfl
@[simp] theorem State.stage_board (s : State) (x : StagedTables) (t : TableName) : (s.stage x t).board = s.board := rfl
@[simp] theorem State.stage_track (s : State) (x : StagedTables) (t : TableName) : (s.stage x t).track = s.track := rfl
@[simp] theorem State.stage_steering (s : State) (x : StagedTables) (t : TableName) : (s.stage x t).steering = s.steering := rfl
@[simp] theorem State.stage_joints (s : State) (x : StagedTables) (t : TableName) : (s.stage x t).joints = s.joints := rfl
@[simp] theorem State.stage_brakes (s : State) (x : StagedTables) (t : TableName) : (s.stage x t).brakes = s.brakes := rfl
@[simp] theorem State.stage_levels (s : State) (x : StagedTables) (t : TableName) : (s.stage x t).levels = s.levels := rfl
@[simp] theorem State.stage_kneel (s : State) (x : StagedTables) (t : TableName) : (s.stage x t).kneel = s.kneel := rfl
@[simp] theorem State.stage_doors (s : State) (x : StagedTables) (t : TableName) : (s.stage x t).doors = s.doors := rfl
@[simp] theorem State.stage_echoes (s : State) (x : StagedTables) (t : TableName) : (s.stage x t).echoes = s.echoes := rfl
@[simp] theorem State.stage_agent (s : State) (x : StagedTables) (t : TableName) : (s.stage x t).agent = s.agent := rfl
@[simp] theorem State.stage_orderCount (s : State) (x : StagedTables) (t : TableName) : (s.stage x t).orderCount = s.orderCount := rfl
@[simp] theorem State.stage_pending (s : State) (x : StagedTables) (t : TableName) : (s.stage x t).pending = s.pending := rfl
@[simp] theorem State.stage_tables_staged (s : State) (x : StagedTables) (t : TableName) : (s.stage x t).tables.staged = x := rfl
@[simp] theorem State.stage_tables_active (s : State) (x : StagedTables) (t : TableName) : (s.stage x t).tables.active = s.tables.active := rfl
@[simp] theorem State.stage_tables_sums (s : State) (x : StagedTables) (t : TableName) : (s.stage x t).tables.sums = s.tables.sums.set t (entrySum x t) := rfl
@[simp] theorem State.stage_tables_waiting (s : State) (x : StagedTables) (t : TableName) : (s.stage x t).tables.waiting = s.tables.waiting := rfl
@[simp] theorem State.stage_tables_hold (s : State) (x : StagedTables) (t : TableName) : (s.stage x t).tables.hold = s.tables.hold := rfl
@[simp] theorem State.stage_tables_epochs (s : State) (x : StagedTables) (t : TableName) : (s.stage x t).tables.epochs = s.tables.epochs := rfl
@[simp] theorem State.stage_tables_outcome (s : State) (x : StagedTables) (t : TableName) : (s.stage x t).tables.outcome = s.tables.outcome := rfl
@[simp] theorem State.stage_tables_partState (s : State) (x : StagedTables) (t : TableName) : (s.stage x t).tables.partState = s.tables.partState := rfl

/-! ## setHold -/

@[simp] theorem State.setHold_node (s : State) (b : Bool) : (s.setHold b).node = s.node := rfl
@[simp] theorem State.setHold_ports (s : State) (b : Bool) : (s.setHold b).ports = s.ports := rfl
@[simp] theorem State.setHold_path (s : State) (b : Bool) : (s.setHold b).path = s.path := rfl
@[simp] theorem State.setHold_slots (s : State) (b : Bool) : (s.setHold b).slots = s.slots := rfl
@[simp] theorem State.setHold_board (s : State) (b : Bool) : (s.setHold b).board = s.board := rfl
@[simp] theorem State.setHold_track (s : State) (b : Bool) : (s.setHold b).track = s.track := rfl
@[simp] theorem State.setHold_steering (s : State) (b : Bool) : (s.setHold b).steering = s.steering := rfl
@[simp] theorem State.setHold_joints (s : State) (b : Bool) : (s.setHold b).joints = s.joints := rfl
@[simp] theorem State.setHold_brakes (s : State) (b : Bool) : (s.setHold b).brakes = s.brakes := rfl
@[simp] theorem State.setHold_levels (s : State) (b : Bool) : (s.setHold b).levels = s.levels := rfl
@[simp] theorem State.setHold_kneel (s : State) (b : Bool) : (s.setHold b).kneel = s.kneel := rfl
@[simp] theorem State.setHold_doors (s : State) (b : Bool) : (s.setHold b).doors = s.doors := rfl
@[simp] theorem State.setHold_echoes (s : State) (b : Bool) : (s.setHold b).echoes = s.echoes := rfl
@[simp] theorem State.setHold_agent (s : State) (b : Bool) : (s.setHold b).agent = s.agent := rfl
@[simp] theorem State.setHold_orderCount (s : State) (b : Bool) : (s.setHold b).orderCount = s.orderCount := rfl
@[simp] theorem State.setHold_pending (s : State) (b : Bool) : (s.setHold b).pending = s.pending := rfl
@[simp] theorem State.setHold_tables_staged (s : State) (b : Bool) : (s.setHold b).tables.staged = s.tables.staged := rfl
@[simp] theorem State.setHold_tables_active (s : State) (b : Bool) : (s.setHold b).tables.active = s.tables.active := rfl
@[simp] theorem State.setHold_tables_sums (s : State) (b : Bool) : (s.setHold b).tables.sums = s.tables.sums := rfl
@[simp] theorem State.setHold_tables_waiting (s : State) (b : Bool) : (s.setHold b).tables.waiting = s.tables.waiting := rfl
@[simp] theorem State.setHold_tables_hold (s : State) (b : Bool) : (s.setHold b).tables.hold = b := rfl
@[simp] theorem State.setHold_tables_epochs (s : State) (b : Bool) : (s.setHold b).tables.epochs = s.tables.epochs := rfl
@[simp] theorem State.setHold_tables_outcome (s : State) (b : Bool) : (s.setHold b).tables.outcome = s.tables.outcome := rfl
@[simp] theorem State.setHold_tables_partState (s : State) (b : Bool) : (s.setHold b).tables.partState = s.tables.partState := rfl

/-! ## disarm -/

@[simp] theorem State.disarm_node (s : State) : (s.disarm).node = s.node := rfl
@[simp] theorem State.disarm_ports (s : State) : (s.disarm).ports = s.ports := rfl
@[simp] theorem State.disarm_path (s : State) : (s.disarm).path = s.path := rfl
@[simp] theorem State.disarm_slots (s : State) : (s.disarm).slots = s.slots := rfl
@[simp] theorem State.disarm_board (s : State) : (s.disarm).board = s.board := rfl
@[simp] theorem State.disarm_track (s : State) : (s.disarm).track = s.track := rfl
@[simp] theorem State.disarm_steering (s : State) : (s.disarm).steering = s.steering := rfl
@[simp] theorem State.disarm_joints (s : State) : (s.disarm).joints = s.joints := rfl
@[simp] theorem State.disarm_brakes (s : State) : (s.disarm).brakes = s.brakes := rfl
@[simp] theorem State.disarm_levels (s : State) : (s.disarm).levels = s.levels := rfl
@[simp] theorem State.disarm_kneel (s : State) : (s.disarm).kneel = s.kneel := rfl
@[simp] theorem State.disarm_doors (s : State) : (s.disarm).doors = s.doors := rfl
@[simp] theorem State.disarm_echoes (s : State) : (s.disarm).echoes = s.echoes := rfl
@[simp] theorem State.disarm_tables (s : State) : (s.disarm).tables = s.tables := rfl
@[simp] theorem State.disarm_orderCount (s : State) : (s.disarm).orderCount = s.orderCount := rfl
@[simp] theorem State.disarm_pending (s : State) : (s.disarm).pending = s.pending := rfl
@[simp] theorem State.disarm_agent_cursor (s : State) : (s.disarm).agent.cursor = s.agent.cursor := rfl
@[simp] theorem State.disarm_agent_resetArm (s : State) : (s.disarm).agent.resetArm = none := rfl
@[simp] theorem State.disarm_agent_faults (s : State) : (s.disarm).agent.faults = s.agent.faults := rfl

/-! ## setCursor -/

@[simp] theorem State.setCursor_node (s : State) (c : Cursor) : (s.setCursor c).node = s.node := rfl
@[simp] theorem State.setCursor_ports (s : State) (c : Cursor) : (s.setCursor c).ports = s.ports := rfl
@[simp] theorem State.setCursor_path (s : State) (c : Cursor) : (s.setCursor c).path = s.path := rfl
@[simp] theorem State.setCursor_slots (s : State) (c : Cursor) : (s.setCursor c).slots = s.slots := rfl
@[simp] theorem State.setCursor_board (s : State) (c : Cursor) : (s.setCursor c).board = s.board := rfl
@[simp] theorem State.setCursor_track (s : State) (c : Cursor) : (s.setCursor c).track = s.track := rfl
@[simp] theorem State.setCursor_steering (s : State) (c : Cursor) : (s.setCursor c).steering = s.steering := rfl
@[simp] theorem State.setCursor_joints (s : State) (c : Cursor) : (s.setCursor c).joints = s.joints := rfl
@[simp] theorem State.setCursor_brakes (s : State) (c : Cursor) : (s.setCursor c).brakes = s.brakes := rfl
@[simp] theorem State.setCursor_levels (s : State) (c : Cursor) : (s.setCursor c).levels = s.levels := rfl
@[simp] theorem State.setCursor_kneel (s : State) (c : Cursor) : (s.setCursor c).kneel = s.kneel := rfl
@[simp] theorem State.setCursor_doors (s : State) (c : Cursor) : (s.setCursor c).doors = s.doors := rfl
@[simp] theorem State.setCursor_echoes (s : State) (c : Cursor) : (s.setCursor c).echoes = s.echoes := rfl
@[simp] theorem State.setCursor_tables (s : State) (c : Cursor) : (s.setCursor c).tables = s.tables := rfl
@[simp] theorem State.setCursor_orderCount (s : State) (c : Cursor) : (s.setCursor c).orderCount = s.orderCount := rfl
@[simp] theorem State.setCursor_pending (s : State) (c : Cursor) : (s.setCursor c).pending = s.pending := rfl
@[simp] theorem State.setCursor_agent_cursor (s : State) (c : Cursor) : (s.setCursor c).agent.cursor = c := rfl
@[simp] theorem State.setCursor_agent_resetArm (s : State) (c : Cursor) : (s.setCursor c).agent.resetArm = s.agent.resetArm := rfl
@[simp] theorem State.setCursor_agent_faults (s : State) (c : Cursor) : (s.setCursor c).agent.faults = s.agent.faults := rfl

/-! ## responseRefused -/

@[simp] theorem State.responseRefused_node (s : State) : (s.responseRefused).node = s.node := rfl
@[simp] theorem State.responseRefused_ports (s : State) : (s.responseRefused).ports = s.ports := rfl
@[simp] theorem State.responseRefused_path (s : State) : (s.responseRefused).path = s.path := rfl
@[simp] theorem State.responseRefused_slots (s : State) : (s.responseRefused).slots = s.slots := rfl
@[simp] theorem State.responseRefused_board (s : State) : (s.responseRefused).board = s.board := rfl
@[simp] theorem State.responseRefused_track (s : State) : (s.responseRefused).track = s.track := rfl
@[simp] theorem State.responseRefused_steering (s : State) : (s.responseRefused).steering = s.steering := rfl
@[simp] theorem State.responseRefused_joints (s : State) : (s.responseRefused).joints = s.joints := rfl
@[simp] theorem State.responseRefused_brakes (s : State) : (s.responseRefused).brakes = s.brakes := rfl
@[simp] theorem State.responseRefused_levels (s : State) : (s.responseRefused).levels = s.levels := rfl
@[simp] theorem State.responseRefused_kneel (s : State) : (s.responseRefused).kneel = s.kneel := rfl
@[simp] theorem State.responseRefused_doors (s : State) : (s.responseRefused).doors = s.doors := rfl
@[simp] theorem State.responseRefused_echoes (s : State) : (s.responseRefused).echoes = s.echoes := rfl
@[simp] theorem State.responseRefused_tables (s : State) : (s.responseRefused).tables = s.tables := rfl
@[simp] theorem State.responseRefused_orderCount (s : State) : (s.responseRefused).orderCount = s.orderCount := rfl
@[simp] theorem State.responseRefused_pending (s : State) : (s.responseRefused).pending = s.pending := rfl
@[simp] theorem State.responseRefused_agent_cursor (s : State) : (s.responseRefused).agent.cursor = s.agent.cursor := rfl
@[simp] theorem State.responseRefused_agent_resetArm (s : State) : (s.responseRefused).agent.resetArm = s.agent.resetArm := rfl
@[simp] theorem State.responseRefused_agent_faults (s : State) : (s.responseRefused).agent.faults = { egressDrop := true, mgmtDrop := true } := rfl

end Sys2Proof.Machine
end

