-- ==== Sys2Proof/Laws/Ops.lean ====
section
/-! SUPPORT. What the shared operations of Machine/Ops.lean and of the agent can do, said once for each. -/

namespace Sys2Proof.Machine

/-! ## Reads depend on the tables and the slots alone -/

theorem State.param_congr {s t : State} (h : t.tables = s.tables) : t.param = s.param := by
  funext p
  simp only [State.param, h]

theorem State.paramNat_congr {s t : State} (h : t.tables = s.tables) : t.paramNat = s.paramNat := by
  funext p
  simp only [State.paramNat, State.param, h]

theorem State.fit_congr {s t : State} (h : t.tables = s.tables) : t.fit = s.fit := by
  simp only [State.fit, h]

theorem State.axleParams_congr {s t : State} (h : t.tables = s.tables) : t.axleParams = s.axleParams := by
  funext a
  simp only [State.axleParams, h]

theorem State.cornerParams_congr {s t : State} (h : t.tables = s.tables) : t.cornerParams = s.cornerParams := by
  funext c
  simp only [State.cornerParams, h]

theorem State.doorParams_congr {s t : State} (h : t.tables = s.tables) : t.doorParams = s.doorParams := by
  funext d
  simp only [State.doorParams, h]

theorem State.fitted_congr {s t : State} (h : t.tables = s.tables) : t.fitted = s.fitted := by
  funext d
  simp only [State.fitted, State.doorParams_congr h]

theorem State.schedule_congr {s t : State} (h : t.tables = s.tables) : t.schedule = s.schedule := by
  funext n
  simp only [State.schedule, h]

theorem State.inRun_congr {s t : State} (h : t.tables = s.tables) : t.inRun = s.inRun := by
  simp only [State.inRun, h]

theorem State.guardRules_congr {s t : State} (h : t.tables = s.tables) : t.guardRules = s.guardRules := by
  simp only [State.guardRules, h]

theorem State.emitEntry_congr {s t : State} (h : t.tables = s.tables) : t.emitEntry = s.emitEntry := by
  funext k
  simp only [State.emitEntry, State.fit_congr h]

theorem State.echoSpec_congr {s t : State} (h : t.tables = s.tables) : t.echoSpec = s.echoSpec := by
  funext k
  simp only [State.echoSpec, State.emitEntry_congr h]

theorem State.readSlot_congr {s t : State} (h : t.slots = s.slots) : t.readSlot = s.readSlot := by
  funext i
  simp only [State.readSlot, h]

theorem State.readInt_congr {s t : State} (h : t.slots = s.slots) : t.readInt = s.readInt := by
  funext i
  simp only [State.readInt, State.readSlot_congr h]

theorem State.readAngle_congr {s t : State} (h : t.slots = s.slots) : t.readAngle = s.readAngle := by
  funext i
  simp only [State.readAngle, State.readSlot_congr h]

theorem State.present_congr {s t : State} (h : t.slots = s.slots) : t.present = s.present := by
  funext i
  simp only [State.present, State.readSlot_congr h]

theorem State.speed_congr {s t : State} (h : t.slots = s.slots) : t.speed = s.speed := by
  simp only [State.speed, State.readInt_congr h]

theorem State.stationary_congr {s t : State} (h : t.slots = s.slots) : t.stationary = s.stationary := by
  simp only [State.stationary, State.speedBelow, State.speed_congr h]

theorem State.readSchedule_congr {s t : State} (ht : t.tables = s.tables) (hs : t.slots = s.slots) :
    t.readSchedule = s.readSchedule := by
  funext n
  simp only [State.readSchedule, State.scheduleSpeed, State.schedule_congr ht, State.speed_congr hs]

theorem State.rulePart_congr {s t : State} (ht : t.tables = s.tables) (hs : t.slots = s.slots) :
    t.rulePart = s.rulePart := by
  funext g
  simp only [State.rulePart, State.ruleTrue, State.guardRules_congr ht, State.readInt_congr hs]

/-- A slot counts as VALID exactly where a number is read from it. -/
theorem State.present_iff_readInt (s : State) (i : SlotId) : s.present i = (s.readInt i).isSome := by
  simp only [State.present, State.readInt, Option.isSome_map]

/-! ## Free order -/

@[simp] theorem State.drawOrder_snd (s : State) (n : Nat) :
    (s.drawOrder n).2 = { s with orderCount := s.orderCount + 1 } := rfl

/-- What every event and every draw keeps is kept by taking some events in a free order. -/
theorem inAnyOrder_induction {α : Type} {P : State → Prop} {take : α → State → State} {all : List α}
    (draw : ∀ s, P s → P { s with orderCount := s.orderCount + 1 })
    (keep : ∀ e ∈ all, ∀ s, P s → P (take e s)) :
    ∀ (n : Nat) (es : List α) (s : State), (∀ e ∈ es, e ∈ all) → P s → P (inAnyOrder take n es s) := by
  intro n
  induction n with
  | zero => intro es s _ hs; exact hs
  | succ n ih =>
    intro es s hes hs
    match es with
    | [] => exact hs
    | [e] => exact keep e (hes e (by simp)) s hs
    | e :: f :: es =>
      refine ih _ _ (fun x hx => hes x (List.mem_of_mem_eraseIdx hx)) (keep _ ?_ _ (draw s hs))
      show (((e :: f :: es)[Config.pick s.orderCount % (es.length + 2)]?).getD e) ∈ all
      cases hk : (e :: f :: es)[Config.pick s.orderCount % (es.length + 2)]? with
      | none => exact hes e (by simp)
      | some x => exact hes x (List.mem_of_getElem? hk)

/-- What every event of a list and every draw keeps is kept by taking them all. -/
theorem State.takeAll_induction {α : Type} {P : State → Prop} {take : α → State → State} {es : List α} {s : State}
    (draw : ∀ s, P s → P { s with orderCount := s.orderCount + 1 })
    (keep : ∀ e ∈ es, ∀ s, P s → P (take e s)) (hs : P s) : P (s.takeAll take es) :=
  inAnyOrder_induction draw keep _ _ _ (fun _ h => h) hs

@[simp] theorem State.takeAll_nil {α : Type} (s : State) (take : α → State → State) : s.takeAll take [] = s := rfl

@[simp] theorem State.takeAll_singleton {α : Type} (s : State) (take : α → State → State) (e : α) :
    s.takeAll take [e] = take e s := rfl

/-! ## Egress queues -/

@[simp] theorem PortState.queue_setQueue (x : PortState) (k : QueueKind) (q : List Frame) :
    (x.setQueue k q).queue k = q := by
  cases k <;> rfl

@[simp] theorem PortState.queue_setQueue_of_ne (x : PortState) {k k' : QueueKind} (h : k' ≠ k) (q : List Frame) :
    (x.setQueue k q).queue k' = x.queue k' := by
  cases k <;> cases k' <;> first | rfl | exact absurd rfl h

@[simp] theorem PortState.setQueue_link (x : PortState) (k : QueueKind) (q : List Frame) :
    (x.setQueue k q).link = x.link := by
  cases k <;> rfl

@[simp] theorem PortState.setQueue_offer (x : PortState) (k : QueueKind) (q : List Frame) :
    (x.setQueue k q).offer = x.offer := by
  cases k <;> rfl

/-- The arbiter changes the offer record alone. -/
theorem PortState.arbitrate_frame (x : PortState) : x.arbitrate = { x with offer := x.arbitrate.offer } := by
  unfold PortState.arbitrate
  repeat' split
  all_goals rfl

@[simp] theorem PortState.arbitrate_link (x : PortState) : x.arbitrate.link = x.link := by
  rw [x.arbitrate_frame]

@[simp] theorem PortState.arbitrate_priority (x : PortState) : x.arbitrate.priority = x.priority := by
  rw [x.arbitrate_frame]

@[simp] theorem PortState.arbitrate_ordinary (x : PortState) : x.arbitrate.ordinary = x.ordinary := by
  rw [x.arbitrate_frame]

@[simp] theorem PortState.arbitrate_queue (x : PortState) (k : QueueKind) : x.arbitrate.queue k = x.queue k := by
  cases k <;> simp [PortState.queue]

/-- The arbiter leaves an offer that stands. -/
theorem PortState.arbitrate_of_offer {x : PortState} (h : x.offer ≠ .empty) : x.arbitrate = x := by
  unfold PortState.arbitrate
  split
  · rename_i h'
    exact absurd h' h
  · rfl

/-- The arbiter leaves a BUS_OFF port. -/
theorem PortState.arbitrate_of_busOff {x : PortState} (h : x.link = .busOff) : x.arbitrate = x := by
  unfold PortState.arbitrate
  split
  · rename_i h' _
    rw [h] at h'
    cases h'
  · rfl

/-- What admission answers, once (R2, R18). -/
theorem PortState.admission_eq_some {x y : PortState} {k : QueueKind} {fs : List Frame} :
    x.admission k fs = some y ↔
      x.link = .active ∧ (x.queue k).length + newFrames (x.queue k) fs ≤ k.capacity
        ∧ y = (({ x with offer := x.offer.afterAdmission k fs }.setQueue k (fs.foldl admitFrame (x.queue k))).arbitrate) := by
  simp only [PortState.admission]
  split
  · rename_i h
    simp only [Option.some.injEq]
    exact ⟨fun e => ⟨h.1, h.2, e.symm⟩, fun e => e.2.2.symm⟩
  · rename_i h
    constructor
    · intro e
      cases e
    · intro e
      exact absurd ⟨e.1, e.2.1⟩ h

/-- What an offered set can do: it replaces one port by what admission leaves of it. -/
theorem State.offerSet_eq_some {s t : State} {p : Port} {k : QueueKind} {fs : List Frame} :
    s.offerSet p k fs = some t ↔
      ∃ x, (s.ports.get p).admission k fs = some x ∧ t = { s with ports := s.ports.set p x } := by
  unfold State.offerSet
  cases (s.ports.get p).admission k fs with
  | none => simp
  | some x =>
    simp only [Option.some.injEq, exists_eq_left']
    exact eq_comm

theorem State.offerSet_eq_none {s : State} {p : Port} {k : QueueKind} {fs : List Frame} :
    s.offerSet p k fs = none ↔ (s.ports.get p).admission k fs = none := by
  unfold State.offerSet
  cases (s.ports.get p).admission k fs <;> simp

/-- An offered set changes nothing but the ports. -/
theorem State.offerSet_frame {s t : State} {p : Port} {k : QueueKind} {fs : List Frame}
    (h : s.offerSet p k fs = some t) : t = { s with ports := t.ports } := by
  obtain ⟨x, -, rfl⟩ := State.offerSet_eq_some.mp h
  rfl

/-! ## Reason sets -/

@[simp] theorem ReasonSet.has_put (r : ReasonSet) (m : Reason) (b : Bool) : (r.put m b).has m = b := by
  cases m <;> simp [ReasonSet.put, ReasonSet.has]

@[simp] theorem ReasonSet.has_put_of_ne (r : ReasonSet) {m m' : Reason} (b : Bool) (h : m' ≠ m) :
    (r.put m b).has m' = r.has m' := by
  cases m with
  | kneel =>
    cases m' with
    | kneel => exact absurd rfl h
    | door d => rfl
  | door d =>
    cases m' with
    | kneel => rfl
    | door d' =>
      have : d' ≠ d := fun e => h (by rw [e])
      simp [ReasonSet.put, ReasonSet.has, this]

/-- A set is empty where it holds no member. -/
theorem ReasonSet.isEmpty_iff (r : ReasonSet) : r.isEmpty = true ↔ ∀ m, r.has m = false := by
  constructor
  · intro h m
    simp only [ReasonSet.isEmpty, Bool.not_eq_true', Bool.or_eq_false_iff] at h
    cases m with
    | kneel => exact h.1.1.1.1.1
    | door d => cases d <;> simp [ReasonSet.has, PerDoor.get, h]
  · intro h
    have hk := h .kneel
    have h1 := h (.door .d1)
    have h2 := h (.door .d2)
    have h3 := h (.door .d3)
    have h4 := h (.door .d4)
    have h5 := h (.door .d5)
    simp only [ReasonSet.has, PerDoor.get] at hk h1 h2 h3 h4 h5
    simp [ReasonSet.isEmpty, hk, h1, h2, h3, h4, h5]

/-! ## Responses -/

/-- What a response can do: its effect on the state with the response queued, or the two faults of a refusal (R186). -/
theorem State.respond_cases (s : State) (code tag : Byte) (r : Reply) (effect : State → State) :
    (∃ q, s.ports.u.admission .ordinary [s.responseFrame code tag r] = some q
        ∧ s.respond code tag r effect = effect { s with ports := { s.ports with u := q } })
      ∨ (s.ports.u.admission .ordinary [s.responseFrame code tag r] = none
        ∧ s.respond code tag r effect = s.responseRefused) := by
  unfold State.respond State.offerSet
  simp only [PerPort.get]
  cases h : s.ports.u.admission .ordinary [s.responseFrame code tag r] with
  | none => exact .inr ⟨rfl, rfl⟩
  | some q => exact .inl ⟨q, rfl, rfl⟩

/-- What an answer can do (R186, R196). -/
theorem State.answer_cases (s : State) (code tag : Byte) (r : Reply) (effect : State → State) :
    (∃ q, s.ports.u.admission .ordinary [s.responseFrame code tag r] = some q
        ∧ s.answer code tag r effect = (effect { s with ports := { s.ports with u := q } }).disarm)
      ∨ (s.ports.u.admission .ordinary [s.responseFrame code tag r] = none
        ∧ s.answer code tag r effect = s.responseRefused) :=
  s.respond_cases code tag r fun t => (effect t).disarm

/-- A BUS_OFF port admits nothing (R2). -/
theorem PortState.admission_of_busOff {x : PortState} (h : x.link = .busOff) (k : QueueKind) (fs : List Frame) :
    x.admission k fs = none := by
  simp [PortState.admission, h]

/-! ## Bits and bytes -/

@[simp] theorem leBytes_length (n x : Nat) : (leBytes n x).length = n := by
  induction n generalizing x with
  | zero => rfl
  | succ n ih => simp [leBytes, ih]

/-- Reading a number's bytes back gives it modulo their range (R185). -/
theorem leNat_leBytes (n x : Nat) : leNat (leBytes n x) = x % 256 ^ n := by
  induction n generalizing x with
  | zero => simp [leBytes, leNat, Nat.mod_one]
  | succ n ih =>
    have h : (BitVec.ofNat 8 x).toNat = x % 256 := BitVec.toNat_ofNat x 8
    rw [leBytes, leNat, ih, h, pow_succ', Nat.mod_mul]

/-- A byte list is below the power of its length. -/
theorem leNat_lt (bs : List Byte) : leNat bs < 256 ^ bs.length := by
  induction bs with
  | nil => simp [leNat]
  | cons b bs ih =>
    have hb := b.isLt
    simp only [leNat, List.length_cons, pow_succ]
    omega

@[simp] theorem vget_of_lt {α : Type} {n : Nat} (v : Vector α n) {i : Nat} (h : i < n) (d : α) : vget v i d = v[i] := by
  simp [vget, h]

@[simp] theorem vmap_getElem {α β : Type} {n : Nat} (f : α → β) (v : Vector α n) (i : Nat) (h : i < n) :
    (vmap f v)[i] = f v[i] := by
  simp [vmap]

end Sys2Proof.Machine
end

