-- ==== Sys2Proof/Laws/Frames.lean ====
section
/-! SUPPORT. Which blocks of the state each operation may change, from the single updates up to the triggers and the
cycle mark. -/

namespace Sys2Proof.Machine

/-- The fields of the state. -/
inductive Block where
  | node | ports | path | slots | board | track | steering | joints | brakes | levels | kneel | doors | echoes | tables
  | agent | orderCount | pending
  deriving DecidableEq, Repr

/-- A field is the same in two states. -/
def Block.same (s t : State) : Block → Prop
  | .node => t.node = s.node
  | .ports => t.ports = s.ports
  | .path => t.path = s.path
  | .slots => t.slots = s.slots
  | .board => t.board = s.board
  | .track => t.track = s.track
  | .steering => t.steering = s.steering
  | .joints => t.joints = s.joints
  | .brakes => t.brakes = s.brakes
  | .levels => t.levels = s.levels
  | .kneel => t.kneel = s.kneel
  | .doors => t.doors = s.doors
  | .echoes => t.echoes = s.echoes
  | .tables => t.tables = s.tables
  | .agent => t.agent = s.agent
  | .orderCount => t.orderCount = s.orderCount
  | .pending => t.pending = s.pending

/-- `t` differs from `s` at most in the named blocks. -/
def State.ChangesOnly (bs : List Block) (s t : State) : Prop := ∀ b, b ∉ bs → b.same s t

theorem Block.same_refl (s : State) (b : Block) : b.same s s := by
  cases b <;> rfl

theorem Block.same_trans {s t u : State} {b : Block} (h : b.same s t) (h' : b.same t u) : b.same s u := by
  cases b <;> exact Eq.trans h' h

theorem State.ChangesOnly.refl (bs : List Block) (s : State) : State.ChangesOnly bs s s :=
  fun b _ => b.same_refl s

theorem State.ChangesOnly.trans {bs : List Block} {s t u : State} (h : State.ChangesOnly bs s t)
    (h' : State.ChangesOnly bs t u) : State.ChangesOnly bs s u :=
  fun b hb => Block.same_trans (h b hb) (h' b hb)

theorem State.ChangesOnly.mono {bs bs' : List Block} {s t : State} (h : State.ChangesOnly bs s t)
    (hs : ∀ b ∈ bs, b ∈ bs') : State.ChangesOnly bs' s t :=
  fun b hb => h b fun hm => hb (hs b hm)

/-- The field of a block that is not named, as an equation. -/
theorem State.ChangesOnly.get {bs : List Block} {s t : State} (h : State.ChangesOnly bs s t) (b : Block)
    (hb : b ∉ bs := by decide) : b.same s t := h b hb

/-- Two states that agree in every block are equal. -/
theorem State.eq_of_same {s t : State} (h : ∀ b : Block, b.same s t) : t = s := by
  rcases s with ⟨⟩
  rcases t with ⟨⟩
  simp only [State.mk.injEq]
  exact ⟨h .node, h .ports, h .path, h .slots, h .board, h .track, h .steering, h .joints, h .brakes, h .levels,
    h .kneel, h .doors, h .echoes, h .tables, h .agent, h .orderCount, h .pending⟩

/-- One step and another, each within its own blocks. -/
theorem State.ChangesOnly.comp {bs bs₁ bs₂ : List Block} {s t u : State} (h : State.ChangesOnly bs₁ s t)
    (h' : State.ChangesOnly bs₂ t u) (hs : ∀ b ∈ bs₁ ++ bs₂, b ∈ bs := by decide) : State.ChangesOnly bs s u :=
  (h.mono fun b hb => hs b (List.mem_append_left _ hb)).trans (h'.mono fun b hb => hs b (List.mem_append_right _ hb))

theorem State.ChangesOnly.ite {bs : List Block} {s t u : State} {c : Prop} [Decidable c]
    (h : State.ChangesOnly bs s t) (h' : State.ChangesOnly bs s u) : State.ChangesOnly bs s (if c then t else u) := by
  split
  · exact h
  · exact h'

/-- Events taken in a free order stay within the blocks of the events and the order count. -/
theorem State.takeAll_changes {α : Type} {bs : List Block} {take : α → State → State} {es : List α} (s : State)
    (ho : Block.orderCount ∈ bs) (h : ∀ e ∈ es, ∀ t, State.ChangesOnly bs t (take e t)) :
    State.ChangesOnly bs s (s.takeAll take es) := by
  refine State.takeAll_induction (P := State.ChangesOnly bs s) ?_ (fun e he t ht => ht.trans (h e he t)) (.refl bs s)
  intro t ht
  refine ht.trans fun b hb => ?_
  cases b <;> first | rfl | exact absurd ho hb

/-- An offered set changes the ports alone. -/
theorem State.offerSet_changes {s t : State} {p : Port} {k : QueueKind} {fs : List Frame}
    (h : s.offerSet p k fs = some t) : State.ChangesOnly [.ports] s t := by
  obtain ⟨x, -, rfl⟩ := State.offerSet_eq_some.mp h
  intro b hb
  cases b <;> first | rfl | exact absurd (by decide) hb

/-! ## Single updates -/

theorem State.setPort_changes (s : State) (p : Port) (x : PortState) :
    State.ChangesOnly [.ports] s (s.setPort p x) := by
  intro b hb
  cases b <;> first | rfl | exact absurd (by decide) hb

theorem State.latchPath_changes (s : State) (f : PathFaults → PathFaults) :
    State.ChangesOnly [.path] s (s.latchPath f) := by
  intro b hb
  cases b <;> first | rfl | exact absurd (by decide) hb

theorem State.setEntry_changes (s : State) (i : Fin 96) (r : EntryRecord) :
    State.ChangesOnly [.path] s (s.setEntry i r) := by
  intro b hb
  cases b <;> first | rfl | exact absurd (by decide) hb

theorem State.setCycleTimer_changes (s : State) (t : Timer) :
    State.ChangesOnly [.path] s (s.setCycleTimer t) := by
  intro b hb
  cases b <;> first | rfl | exact absurd (by decide) hb

theorem State.postReason_changes (s : State) (m : Reason) :
    State.ChangesOnly [.board] s (s.postReason m) := by
  intro b hb
  cases b <;> first | rfl | exact absurd (by decide) hb

theorem State.withdrawReason_changes (s : State) (m : Reason) :
    State.ChangesOnly [.board] s (s.withdrawReason m) := by
  intro b hb
  cases b <;> first | rfl | exact absurd (by decide) hb

theorem State.postLimit_changes (s : State) (k : LimitKind) :
    State.ChangesOnly [.board] s (s.postLimit k) := by
  intro b hb
  cases b <;> first | rfl | exact absurd (by decide) hb

theorem State.withdrawLimit_changes (s : State) (k : LimitKind) :
    State.ChangesOnly [.board] s (s.withdrawLimit k) := by
  intro b hb
  cases b <;> first | rfl | exact absurd (by decide) hb

theorem State.replaceLimits_changes (s : State) :
    State.ChangesOnly [.board] s s.replaceLimits := by
  intro b hb
  cases b <;> first | rfl | exact absurd (by decide) hb

theorem State.writeStretch_changes (s : State) :
    State.ChangesOnly [.board] s s.writeStretch := by
  intro b hb
  cases b <;> first | rfl | exact absurd (by decide) hb

theorem State.setRear_changes (s : State) (r : Rear) (x : RearRecord) :
    State.ChangesOnly [.steering] s (s.setRear r x) := by
  intro b hb
  cases b <;> first | rfl | exact absurd (by decide) hb

theorem State.latchSteering_changes (s : State) (f : SteeringFaults → SteeringFaults) :
    State.ChangesOnly [.steering] s (s.latchSteering f) := by
  intro b hb
  cases b <;> first | rfl | exact absurd (by decide) hb

theorem State.clearLastAngles_changes (s : State) :
    State.ChangesOnly [.steering] s s.clearLastAngles := by
  intro b hb
  cases b <;> first | rfl | exact absurd (by decide) hb

theorem State.latchBrake_changes (s : State) (f : BrakeFaults → BrakeFaults) :
    State.ChangesOnly [.brakes] s (s.latchBrake f) := by
  intro b hb
  cases b <;> first | rfl | exact absurd (by decide) hb

theorem State.recordLoads_changes (s : State) (x : PerAxle (Nat × LoadSource)) :
    State.ChangesOnly [.brakes] s (s.recordLoads x) := by
  intro b hb
  cases b <;> first | rfl | exact absurd (by decide) hb

theorem State.clearSnapshot_changes (s : State) :
    State.ChangesOnly [.brakes] s s.clearSnapshot := by
  intro b hb
  cases b <;> first | rfl | exact absurd (by decide) hb

theorem State.setCorner_changes (s : State) (c : Corner) (r : CornerRecord) :
    State.ChangesOnly [.levels] s (s.setCorner c r) := by
  intro b hb
  cases b <;> first | rfl | exact absurd (by decide) hb

theorem State.mapCorners_changes (s : State) (f : Corner → CornerRecord → CornerRecord) :
    State.ChangesOnly [.levels] s (s.mapCorners f) := by
  intro b hb
  cases b <;> first | rfl | exact absurd (by decide) hb

theorem State.latchLevel_changes (s : State) (f : LevelFaults → LevelFaults) :
    State.ChangesOnly [.levels] s (s.latchLevel f) := by
  intro b hb
  cases b <;> first | rfl | exact absurd (by decide) hb

theorem State.setKneel_changes (s : State) (f : Kneel → Kneel) :
    State.ChangesOnly [.kneel] s (s.setKneel f) := by
  intro b hb
  cases b <;> first | rfl | exact absurd (by decide) hb

theorem State.latchKneel_changes (s : State) (f : KneelFaults → KneelFaults) :
    State.ChangesOnly [.kneel] s (s.latchKneel f) := by
  intro b hb
  cases b <;> first | rfl | exact absurd (by decide) hb

theorem State.setDoor_changes (s : State) (d : Door) (r : DoorRecord) :
    State.ChangesOnly [.doors] s (s.setDoor d r) := by
  intro b hb
  cases b <;> first | rfl | exact absurd (by decide) hb

theorem State.latchDoor_changes (s : State) (f : DoorFaults → DoorFaults) :
    State.ChangesOnly [.doors] s (s.latchDoor f) := by
  intro b hb
  cases b <;> first | rfl | exact absurd (by decide) hb

theorem State.clearLatches_changes (s : State) (m : PerDoor Bool) :
    State.ChangesOnly [.doors] s (s.clearLatches m) := by
  intro b hb
  cases b <;> first | rfl | exact absurd (by decide) hb

theorem State.setEcho_changes (s : State) (k : EchoKind) (r : EchoRecord) :
    State.ChangesOnly [.echoes] s (s.setEcho k r) := by
  intro b hb
  cases b <;> first | rfl | exact absurd (by decide) hb

theorem State.stage_changes (s : State) (x : StagedTables) (t : TableName) :
    State.ChangesOnly [.tables] s (s.stage x t) := by
  intro b hb
  cases b <;> first | rfl | exact absurd (by decide) hb

theorem State.setHold_changes (s : State) (b : Bool) :
    State.ChangesOnly [.tables] s (s.setHold b) := by
  intro b hb
  cases b <;> first | rfl | exact absurd (by decide) hb

theorem State.disarm_changes (s : State) :
    State.ChangesOnly [.agent] s s.disarm := by
  intro b hb
  cases b <;> first | rfl | exact absurd (by decide) hb

theorem State.setCursor_changes (s : State) (c : Cursor) :
    State.ChangesOnly [.agent] s (s.setCursor c) := by
  intro b hb
  cases b <;> first | rfl | exact absurd (by decide) hb

theorem State.responseRefused_changes (s : State) :
    State.ChangesOnly [.agent] s s.responseRefused := by
  intro b hb
  cases b <;> first | rfl | exact absurd (by decide) hb

/-! ## Echo supervisor -/

theorem State.echoEmission_changes (s : State) (k : EchoKind) (v : Int) :
    State.ChangesOnly [.echoes] s (s.echoEmission k v) := by
  unfold State.echoEmission
  split
  · exact .refl _ _
  · exact s.setEcho_changes _ _

theorem State.settleEcho_changes (s : State) (k : EchoKind) (r : EchoRecord) (b : Bool) :
    State.ChangesOnly [.echoes] s (s.settleEcho k r b) := by
  simp only [State.settleEcho]
  refine .ite (fun b hb => ?_) (s.setEcho_changes _ _)
  cases b <;> first | rfl | exact absurd (by decide) hb

theorem State.echoArrival_changes (s : State) (k : EchoKind) : State.ChangesOnly [.echoes] s (s.echoArrival k) := by
  unfold State.echoArrival
  split
  · exact .refl _ _
  · exact .ite (.refl _ _) (s.settleEcho_changes _ _ _)

/-! ## Steering unit -/

theorem State.checkCoverage_changes (s : State) (r : Rear) : State.ChangesOnly [.steering] s (s.checkCoverage r) :=
  .ite (s.setRear_changes _ _) (.refl _ _)

theorem State.checkCoverages_changes (s : State) : State.ChangesOnly [.steering] s s.checkCoverages :=
  (s.checkCoverage_changes .a3).trans (State.checkCoverage_changes _ .a4)

theorem State.odometerTrigger_changes (s : State) : State.ChangesOnly [.track, .steering] s s.odometerTrigger := by
  unfold State.odometerTrigger
  split
  · exact .refl _ _
  · rename_i x _
    rcases s.track.sample s.pitch x s.pathHeading with ⟨t, broken⟩
    refine .comp (bs₁ := [.track, .steering]) ?_ (State.checkCoverages_changes _)
    cases broken <;> intro b hb <;> cases b <;> first | rfl | exact absurd (by decide) hb

theorem State.settleRear_changes (s : State) (r : Rear) : State.ChangesOnly [.steering, .board] s (s.settleRear r).1 := by
  simp only [State.settleRear]
  repeat' split
  all_goals
    intro b hb
    cases b <;> first | rfl | exact absurd (by decide) hb

theorem State.steerEmitted_changes (s : State) (r : Rear) (c : SteerCommand) :
    State.ChangesOnly [.steering, .echoes] s (s.steerEmitted r c) :=
  .comp (s.setRear_changes _ _) (State.echoEmission_changes _ _ _)

theorem State.offerSteer_changes (s : State) (c3 c4 : SteerCommand) :
    State.ChangesOnly [.ports, .steering, .echoes] s (s.offerSteer c3 c4) := by
  unfold State.offerSteer
  split
  · rename_i h
    exact .comp (State.offerSet_changes h)
      (.comp (State.steerEmitted_changes _ _ _) (State.steerEmitted_changes _ _ _) (bs := [.steering, .echoes]))
  · exact (s.latchSteering_changes _).mono (by decide)

theorem State.steerTrigger_changes (s : State) :
    State.ChangesOnly [.ports, .steering, .echoes, .board] s s.steerTrigger := by
  simp only [State.steerTrigger]
  exact .comp (s.settleRear_changes .a3) (.comp (State.settleRear_changes _ .a4) (State.offerSteer_changes _ _ _)
    (bs := [.ports, .steering, .echoes, .board]))

theorem State.lockRear_changes (s : State) (r : Rear) : State.ChangesOnly [.steering, .board] s (s.lockRear r) :=
  .comp (s.setRear_changes _ _) (State.postLimit_changes _ _)

theorem State.steerMark_changes (s : State) : State.ChangesOnly [.ports, .steering, .echoes, .board] s s.steerMark :=
  .ite (.refl _ _) (.comp (s.lockRear_changes .a3) (.comp (State.lockRear_changes _ .a4) (State.offerSteer_changes _ _ _)
    (bs := [.ports, .steering, .echoes, .board])))

/-! ## Joint unit -/

theorem State.settleJoint_changes (s : State) (j : Joint) : State.ChangesOnly [.joints, .board] s (s.settleJoint j) := by
  simp only [State.settleJoint]
  split <;> intro b hb <;> cases b <;> first | rfl | exact absurd (by decide) hb

theorem State.offerDamping_changes (s : State) : State.ChangesOnly [.ports, .joints] s s.offerDamping := by
  simp only [State.offerDamping]
  split
  · rename_i h
    exact (State.offerSet_changes h).mono (by decide)
  · intro b hb
    cases b <;> first | rfl | exact absurd (by decide) hb

theorem State.jointTrigger_changes (s : State) : State.ChangesOnly [.ports, .joints, .board] s s.jointTrigger :=
  .comp (s.settleJoint_changes .j1) (.comp (State.settleJoint_changes _ .j2)
    (.comp (State.writeStretch_changes _) (State.offerDamping_changes _) (bs := [.ports, .joints, .board]))
    (bs := [.ports, .joints, .board]))

theorem State.jointMark_changes (s : State) : State.ChangesOnly [.ports, .joints] s s.jointMark := by
  simp only [State.jointMark]
  refine .ite (.refl _ _) (.comp (bs₁ := [.joints]) (fun b hb => ?_) (State.offerDamping_changes _))
  cases b <;> first | rfl | exact absurd (by decide) hb

/-! ## Brake distributor -/

theorem State.requestSnapshot_changes (s : State) : State.ChangesOnly [.brakes] s s.requestSnapshot := by
  unfold State.requestSnapshot
  split
  · exact .refl _ _
  · intro b hb
    cases b <;> first | rfl | exact absurd (by decide) hb

theorem State.brakeLimit_changes (s : State) : State.ChangesOnly [.board] s s.brakeLimit :=
  .ite (s.withdrawLimit_changes _) (s.postLimit_changes _)

theorem State.brakesEmitted_changes (s : State) (p : PerAxle Nat) :
    State.ChangesOnly [.echoes] s (s.brakesEmitted p) :=
  (s.echoEmission_changes _ _).trans ((State.echoEmission_changes _ _ _).trans
    ((State.echoEmission_changes _ _ _).trans (State.echoEmission_changes _ _ _)))

theorem State.computePressures_changes (s : State) (demand : Nat) :
    State.ChangesOnly [.ports, .brakes, .board, .echoes] s (s.computePressures demand) := by
  simp only [State.computePressures]
  have h0 : State.ChangesOnly [.brakes, .board] s (s.recordLoads (PerAxle.ofFn s.axleLoad)).brakeLimit :=
    .comp (s.recordLoads_changes _) (State.brakeLimit_changes _)
  refine .comp (bs₂ := [.ports, .brakes, .echoes]) h0 ?_
  split
  · rename_i h
    exact .comp (State.offerSet_changes h) (State.brakesEmitted_changes _ _)
  · exact (State.latchBrake_changes _ _).mono (by decide)

theorem State.computeStale_changes (s : State) :
    State.ChangesOnly [.ports, .brakes, .board, .echoes] s s.computeStale :=
  .comp (bs₁ := [.brakes]) (.ite (s.latchBrake_changes _) (.refl _ _)) (State.computePressures_changes _ _)

theorem State.brakeTrigger_changes (s : State) :
    State.ChangesOnly [.ports, .brakes, .board, .echoes] s s.brakeTrigger := by
  unfold State.brakeTrigger
  split
  · exact s.computePressures_changes _
  · exact s.computeStale_changes

theorem State.brakeMark_changes (s : State) : State.ChangesOnly [.ports, .brakes, .board, .echoes] s s.brakeMark :=
  .ite (.refl _ _) s.computeStale_changes

theorem State.recomputeHalt_changes (s : State) : State.ChangesOnly [.board] s s.recomputeHalt := by
  refine .trans (t := { s with board := { s.board with haltConfirmed := s.haltVerdict } }) (fun b hb => ?_)
    (State.brakeLimit_changes _)
  cases b <;> first | rfl | exact absurd (by decide) hb

/-! ## Level controller -/

theorem State.settleSlow_changes (s : State) : State.ChangesOnly [.board] s s.settleSlow :=
  .ite (.refl _ _) (s.withdrawLimit_changes _)

theorem State.retargetRide_changes (s : State) : State.ChangesOnly [.levels, .board] s s.retargetRide :=
  .comp (s.mapCorners_changes _) (State.settleSlow_changes _)

theorem State.rideNormal_changes (s : State) : State.ChangesOnly [.levels, .board] s s.rideNormal := by
  unfold State.rideNormal
  split
  · exact .refl _ _
  · refine .comp (bs₁ := [.levels]) (t := { s with levels := { s.levels with ride := .normal } }) (fun b hb => ?_)
      (.comp (State.retargetRide_changes _) (State.withdrawLimit_changes _ _) (bs := [.levels, .board]))
    cases b <;> first | rfl | exact absurd (by decide) hb

theorem State.rideHigh_changes (s : State) : State.ChangesOnly [.levels, .board] s s.rideHigh := by
  refine .comp (bs₁ := [.levels]) (t := { s with levels := { s.levels with ride := .high } }) (fun b hb => ?_)
    (.comp (State.retargetRide_changes _) (State.postLimit_changes _ _) (bs := [.levels, .board]))
  cases b <;> first | rfl | exact absurd (by decide) hb

theorem State.returnCheck_changes (s : State) : State.ChangesOnly [.levels, .board] s s.returnCheck :=
  .ite s.rideNormal_changes (.refl _ _)

theorem State.levelRequestNotice_changes (s : State) :
    State.ChangesOnly [.levels, .board] s s.levelRequestNotice := by
  simp only [State.levelRequestNotice]
  refine s.returnCheck_changes.trans ?_
  split
  · exact .refl _ _
  · exact .ite (State.rideNormal_changes _) (.ite (State.rideHigh_changes _) (.refl _ _))

theorem State.kerbRequest_changes (s : State) (q : KerbRequest) :
    State.ChangesOnly [.levels, .board] s (s.kerbRequest q) :=
  .comp (s.mapCorners_changes _) (State.settleSlow_changes _)

theorem State.sampleCorner_changes (s : State) (c : Corner) : State.ChangesOnly [.levels] s (s.sampleCorner c) := by
  simp only [State.sampleCorner]
  split
  · exact s.setCorner_changes _ _
  · split
    · exact (s.setCorner_changes _ _).trans (State.latchLevel_changes _ _)
    · exact s.setCorner_changes _ _

theorem State.offerValves_changes (s : State) (a : Axle) (l r : ValveCommand) :
    State.ChangesOnly [.ports, .levels] s (s.offerValves a l r) := by
  unfold State.offerValves
  split
  · rename_i h
    exact (State.offerSet_changes h).mono (by decide)
  · exact (s.latchLevel_changes _).mono (by decide)

theorem State.levelTrigger_changes (s : State) (a : Axle) :
    State.ChangesOnly [.ports, .levels, .board] s (s.levelTrigger a) :=
  .comp s.returnCheck_changes (.comp ((State.sampleCorner_changes _ _).trans (State.sampleCorner_changes _ _))
    (.comp ((State.setCorner_changes _ _ _).trans (State.setCorner_changes _ _ _))
      (.comp (State.settleSlow_changes _) (State.offerValves_changes _ _ _ _) (bs := [.ports, .levels, .board]))
      (bs := [.ports, .levels, .board])) (bs := [.ports, .levels, .board]))

theorem State.heightLoss_changes (s : State) (c : Corner) :
    State.ChangesOnly [.ports, .levels, .board] s (s.heightLoss c) := by
  simp only [State.heightLoss]
  have h1 := State.ChangesOnly.comp (bs := [.ports, .levels, .board])
    (s.setCorner_changes c { (s.levels.corners.get c).clearRing with mode := .fault, slow := false, activeSince := none })
    (State.settleSlow_changes _)
  have h2 := h1.trans (u := if s.slots[slotHeight c].validity = .stale then _ else _)
    (.ite ((State.latchLevel_changes _ fun f => { f with heightStale := true }).mono (by decide)) (.refl _ _))
  exact h2.trans (.ite ((State.offerValves_changes _ _ _ _).mono (by decide)) (.refl _ _))

theorem State.cornerApplied_changes (s : State) : State.ChangesOnly [.levels, .board] s s.cornerApplied :=
  .comp (s.mapCorners_changes _) (State.withdrawLimit_changes _ _)

theorem State.clearRings_changes (s : State) : State.ChangesOnly [.levels] s s.clearRings := s.mapCorners_changes _

/-! ## Kneel sequencer -/

theorem State.enterArming_changes (s : State) : State.ChangesOnly [.kneel, .board, .levels] s s.enterArming :=
  .comp (s.setKneel_changes _) (.comp (State.postReason_changes _ _) (State.rideNormal_changes _)
    (bs := [.kneel, .board, .levels]))

theorem State.enterLowering_changes (s : State) :
    State.ChangesOnly [.kneel, .board, .levels, .brakes] s s.enterLowering :=
  .comp (s.setKneel_changes _) (.comp (State.requestSnapshot_changes _) (State.kerbRequest_changes _ _)
    (bs := [.kneel, .board, .levels, .brakes]))

theorem State.enterPaused_changes (s : State) : State.ChangesOnly [.kneel, .board, .levels] s s.enterPaused :=
  .comp (s.setKneel_changes _) (State.kerbRequest_changes _ _)

theorem State.enterRaising_changes (s : State) : State.ChangesOnly [.kneel, .board, .levels] s s.enterRaising :=
  .comp (s.setKneel_changes _) (State.kerbRequest_changes _ _)

theorem State.dropKneelFault_changes (s : State) : State.ChangesOnly [.kneel, .board] s s.dropKneelFault :=
  .ite (.comp (s.withdrawLimit_changes _) (State.setKneel_changes _ _)) (.refl _ _)

theorem State.enterRide_changes (s : State) (b : Bool) :
    State.ChangesOnly [.kneel, .board, .brakes] s (s.enterRide b) := by
  have h := State.ChangesOnly.comp (bs := [.kneel, .board, .brakes]) (s.setKneel_changes fun k =>
      { k with state := .ride, armTimer := none, deadline := none })
    (State.ChangesOnly.comp (bs := [.kneel, .board, .brakes]) (State.withdrawReason_changes _ .kneel)
      (State.clearSnapshot_changes _))
  exact h.trans (.ite ((State.dropKneelFault_changes _).mono (by decide)) (.refl _ _))

theorem State.kneelReevaluate_changes (s : State) (ask : KneelAsk) :
    State.ChangesOnly [.kneel, .board, .levels, .brakes] s (s.kneelReevaluate ask) := by
  have hr := s.enterRaising_changes.mono (bs' := [.kneel, .board, .levels, .brakes]) (by decide)
  have hp := s.enterPaused_changes.mono (bs' := [.kneel, .board, .levels, .brakes]) (by decide)
  have hk := (s.setKneel_changes fun k => { k with state := .knelt, deadline := none }).mono
    (bs' := [.kneel, .board, .levels, .brakes]) (by decide)
  have he := fun b => (s.enterRide_changes b).mono (bs' := [.kneel, .board, .levels, .brakes]) (by decide)
  unfold State.kneelReevaluate
  split
  · have h : State.ChangesOnly [.kneel, .board, .levels, .brakes] s
        (if s.kneel.faultPosted ∧ s.allInBand then s.dropKneelFault else s) :=
      .ite (s.dropKneelFault_changes.mono (by decide)) (.refl _ _)
    exact .ite (h.trans ((State.enterArming_changes _).mono (by decide))) h
  · exact .ite (he false) (.ite s.enterLowering_changes (.refl _ _))
  · exact .ite hr (.ite hp (.ite hk (.refl _ _)))
  · exact .ite hr (.refl _ _)
  · exact .ite hr (.ite s.enterLowering_changes (.refl _ _))
  · exact .ite s.enterLowering_changes (.ite (he true) (.refl _ _))

theorem State.releaseNotice_changes (s : State) : State.ChangesOnly [.kneel, .board, .levels] s s.releaseNotice :=
  .ite s.enterArming_changes (.refl _ _)

theorem State.kneelMark_changes (s : State) (b : Bool) :
    State.ChangesOnly [.kneel, .board, .levels, .brakes] s (s.kneelMark b) :=
  .comp (bs₁ := [.kneel]) (.ite (s.setKneel_changes _) (.refl _ _)) (State.kneelReevaluate_changes _ _)

/-! ## Door interlock unit -/

theorem State.latchEvent_changes (s : State) (d : Door) (k : DoorEvent) :
    State.ChangesOnly [.doors] s (s.latchEvent d k) := .ite (s.setDoor_changes _ _) (.refl _ _)

theorem State.latchEvents_changes (s : State) (d : Door) (ks : List DoorEvent) :
    State.ChangesOnly [.doors] s (s.latchEvents d ks) := by
  unfold State.latchEvents
  induction ks generalizing s with
  | nil => exact .refl _ _
  | cons k ks ih => exact (s.latchEvent_changes d k).trans (ih _)

theorem State.syncReason_changes (s : State) (d : Door) : State.ChangesOnly [.board] s (s.syncReason d) :=
  .ite (s.withdrawReason_changes _) (s.postReason_changes _)

theorem State.offerDoor_changes (s : State) (d : Door) (c : DoorCommand) :
    State.ChangesOnly [.ports, .doors] s (s.offerDoor d c) := by
  unfold State.offerDoor
  split
  · rename_i h
    exact .comp (State.offerSet_changes h) (State.setDoor_changes _ _ _)
  · exact (s.latchDoor_changes _).mono (by decide)

theorem State.afterTransition_changes (s : State) (d : Door) (b : DoorState) :
    State.ChangesOnly [.kneel, .board, .levels] s (s.afterTransition d b) :=
  .ite (.comp (s.syncReason_changes d) (State.releaseNotice_changes _)) ((s.syncReason_changes d).mono (by decide))

theorem State.losePosition_changes (s : State) (d : Door) (b : Bool) :
    State.ChangesOnly [.ports, .doors, .board] s (s.losePosition d b) := by
  simp only [State.losePosition]
  refine .ite (.refl _ _) (.comp (bs₁ := [.doors]) (bs₂ := [.ports, .doors, .board]) ?_
    (.comp (State.syncReason_changes _ _) (State.offerDoor_changes _ _ _)))
  refine .trans (t := if _ then _ else _) (.ite ((s.setDoor_changes _ _).trans (State.latchEvent_changes _ _ _))
    (s.setDoor_changes _ _)) (.ite (State.latchDoor_changes _ _) (.refl _ _))

theorem State.stepDoor_changes (s : State) (d : Door) (r : DoorRecord) (x : Option DoorStep) :
    State.ChangesOnly [.doors] s (s.stepDoor d r x) := by
  unfold State.stepDoor
  split
  · exact s.setDoor_changes _ _
  · have h := fun x : DoorStep => (s.setDoor_changes d { r.goTo x.state with reversals := x.reversals }).trans
      (State.latchEvents_changes _ d x.events)
    exact .ite ((h _).trans (State.latchDoor_changes _ _)) (h _)

theorem State.doorTrigger_changes (s : State) (d : Door) :
    State.ChangesOnly [.ports, .doors, .board, .kneel, .levels] s (s.doorTrigger d) := by
  simp only [State.doorTrigger]
  refine .ite (.refl _ _) ?_
  split
  · exact (s.losePosition_changes d false).mono (by decide)
  · refine .comp (s.stepDoor_changes d _ _) (.comp (State.afterTransition_changes _ d _)
      (.comp (bs₁ := [.doors]) (.ite (State.latchEvent_changes _ _ _) (.refl _ _)) (State.offerDoor_changes _ _ _)
        (bs := [.ports, .doors])) (bs := [.ports, .doors, .board, .kneel, .levels]))

theorem State.moveDoor_changes (s : State) (d : Door) (x : DoorState) (g : Bool) :
    State.ChangesOnly [.ports, .doors, .board, .kneel, .levels] s (s.moveDoor d x g) :=
  .comp (s.setDoor_changes _ _) (.comp (State.afterTransition_changes _ _ _) (State.offerDoor_changes _ _ _)
    (bs := [.ports, .doors, .board, .kneel, .levels]))

theorem State.doorRequest_changes (s : State) (d : Door) :
    State.ChangesOnly [.ports, .doors, .board, .kneel, .levels] s (s.doorRequest d) := by
  simp only [State.doorRequest]
  repeat' split
  all_goals first
    | exact .refl _ _
    | exact s.moveDoor_changes _ _ _
    | exact .comp (s.setDoor_changes _ _) (State.syncReason_changes _ _)

theorem State.doorApplied_changes (s : State) (d : Door) :
    State.ChangesOnly [.doors, .board] s (s.doorApplied d) :=
  .ite (.comp (s.setDoor_changes _ _) (State.withdrawReason_changes _ _))
    (.ite (.comp (s.setDoor_changes _ _) (State.postReason_changes _ _)) ((s.setDoor_changes _ _).mono (by decide)))

theorem State.doorsApplied_changes (s : State) : State.ChangesOnly [.doors, .board] s s.doorsApplied :=
  (s.doorApplied_changes .d1).trans ((State.doorApplied_changes _ .d2).trans ((State.doorApplied_changes _ .d3).trans
    ((State.doorApplied_changes _ .d4).trans (State.doorApplied_changes _ .d5))))

/-! ## Losses, applications, cycle marks -/

theorem State.takeLoss_changes (s : State) (b : Bool) (l : Loss) :
    State.ChangesOnly [.ports, .levels, .doors, .board] s (s.takeLoss b l) := by
  cases l with
  | height c => exact (s.heightLoss_changes c).mono (by decide)
  | position d => exact (s.losePosition_changes d b).mono (by decide)
  | brakeEcho a => exact s.recomputeHalt_changes.mono (by decide)

theorem State.takeLosses_changes (s : State) (b : Bool) (lost : List SlotId) :
    State.ChangesOnly [.ports, .levels, .doors, .board, .orderCount] s (s.takeLosses b lost) :=
  s.takeAll_changes (by decide) fun l _ t => (t.takeLoss_changes b l).mono (by decide)

theorem State.trackApplied_changes (s : State) (old : ActiveTables) :
    State.ChangesOnly [.track, .steering] s (s.trackApplied old) := by
  refine .ite (.comp (bs₁ := [.track]) (t := { s with track := { s.track with marks := [] } }) (fun b hb => ?_)
    (State.checkCoverages_changes _)) (.refl _ _)
  cases b <;> first | rfl | exact absurd (by decide) hb

theorem State.fitApplied_changes (s : State) :
    State.ChangesOnly [.slots, .path, .steering, .echoes, .board, .ports, .levels, .doors, .orderCount] s s.fitApplied := by
  simp only [State.fitApplied]
  refine .comp (bs₁ := [.slots, .path, .steering, .echoes, .board]) ?_
    (.comp (State.clearRings_changes _) (State.takeLosses_changes _ _ _)
      (bs := [.ports, .levels, .doors, .board, .orderCount]))
  split <;> intro b hb <;> cases b <;> first | rfl | exact absurd (by decide) hb

theorem State.doIf_changes {bs : List Block} (s : State) (b : Bool) {f : State → State}
    (h : ∀ t, State.ChangesOnly bs t (f t)) : State.ChangesOnly bs s (s.doIf b f) := .ite (h s) (.refl _ _)

/-- An application leaves the node number, the joints, the brakes' records, the kneel sequencer, the tables, the agent and
the queue of commands as they stand. -/
theorem State.applicationEffects_changes (s : State) (old : ActiveTables) (set : PerTable Bool) :
    State.ChangesOnly [.slots, .path, .steering, .echoes, .board, .ports, .levels, .doors, .orderCount, .track] s
      (s.applicationEffects old set) := by
  simp only [State.applicationEffects]
  refine .trans (.trans (.trans (.trans (.trans (.trans (s.doIf_changes _ fun t => ?_) (State.doIf_changes _ _ fun t => ?_))
    (State.doIf_changes _ _ fun t => ?_)) (State.doIf_changes _ _ fun t => ?_)) (State.doIf_changes _ _ fun t => ?_))
    (State.doIf_changes _ _ fun t => ?_)) (State.doIf_changes _ _ fun t => ?_)
  · exact t.doorsApplied_changes.mono (by decide)
  · exact t.cornerApplied_changes.mono (by decide)
  · exact t.replaceLimits_changes.mono (by decide)
  · exact t.clearLastAngles_changes.mono (by decide)
  · exact (t.trackApplied_changes old).mono (by decide)
  · exact t.fitApplied_changes.mono (by decide)
  · exact (State.kerbRequest_changes _ _).mono (by decide)

theorem State.offerChassis_changes (s : State) : State.ChangesOnly [.ports, .board] s s.offerChassis := by
  unfold State.offerChassis
  split
  · rename_i h
    exact (State.offerSet_changes h).mono (by decide)
  · intro b hb
    cases b <;> first | rfl | exact absurd (by decide) hb

theorem State.followSync_changes (s : State) : State.ChangesOnly [.path, .board] s s.followSync := by
  simp only [State.followSync]
  split <;> intro b hb <;> cases b <;> first | rfl | exact absurd (by decide) hb

/-- An action at a mark leaves the node number, the slots, the track, the doors, the tables, the agent and the queue of
commands as they stand. -/
theorem State.markAction_changes (s : State) (a : MarkAction) :
    State.ChangesOnly [.ports, .path, .board, .steering, .joints, .brakes, .levels, .kneel, .echoes] s
      (s.markAction a) := by
  cases a with
  | chassis => exact s.offerChassis_changes.mono (by decide)
  | steering => exact s.steerMark_changes.mono (by decide)
  | joints => exact s.jointMark_changes.mono (by decide)
  | brakes => exact s.brakeMark_changes.mono (by decide)
  | kneel b => exact (s.kneelMark_changes b).mono (by decide)
  | followSync => exact s.followSync_changes.mono (by decide)

end Sys2Proof.Machine
end

