-- ==== Sys2Proof/Laws/Offers.lean ====
section
/-! SUPPORT. What offering a set can do at the blocks that offer one, and what taking events in a free order can do, in the
terms that claims are stated with; and where the positions of a READ or WRITE go. -/

namespace Sys2Proof.Machine

/-! ## Queues -/

/-- A frame that waits after an admitted frame waited before, or is that frame. -/
theorem mem_admitFrame {q : List Frame} {f g : Frame} (h : g ∈ admitFrame q f) : g ∈ q ∨ g = f := by
  unfold admitFrame at h
  split at h
  · obtain ⟨x, hx, rfl⟩ := List.mem_map.mp h
    split
    · exact .inr rfl
    · exact .inl hx
  · simpa [or_comm] using h

theorem mem_foldl_admitFrame {fs q : List Frame} {g : Frame} (h : g ∈ fs.foldl admitFrame q) : g ∈ q ∨ g ∈ fs := by
  induction fs generalizing q with
  | nil => exact .inl h
  | cons f fs ih =>
    rcases ih h with h | h
    · rcases mem_admitFrame h with h | rfl
      · exact .inl h
      · exact .inr List.mem_cons_self
    · exact .inr (List.mem_cons_of_mem _ h)

/-- A frame that waits after an admission waited there before, or belongs to the set and to its queue (R18, R19). -/
theorem PortState.mem_queue_admission {x y : PortState} {k k' : QueueKind} {fs : List Frame} {g : Frame}
    (h : x.admission k fs = some y) (m : g ∈ y.queue k') : g ∈ x.queue k' ∨ (k' = k ∧ g ∈ fs) := by
  obtain ⟨-, -, rfl⟩ := PortState.admission_eq_some.mp h
  rw [PortState.arbitrate_queue] at m
  by_cases e : k' = k
  · subst e
    rw [PortState.queue_setQueue] at m
    exact (mem_foldl_admitFrame m).imp_right fun m => ⟨rfl, m⟩
  · rw [PortState.queue_setQueue_of_ne _ e] at m
    left
    cases k' <;> exact m

/-- The arbiter acts only on an empty record (R20). -/
theorem PortState.arbitrate_offer (x : PortState) :
    x.arbitrate.offer = if x.offer = .empty then x.choice else x.offer := by
  obtain ⟨link, priority, ordinary, offer⟩ := x
  cases link <;> cases offer <;> cases priority <;> cases ordinary <;> rfl

/-! ## Valve frames and door commands -/

/-- A valve frame is offered as R126 says. -/
theorem State.offerValves_offered (s : State) (a : Axle) (l r : ValveCommand) :
    s.Offered .d .ordinary (s.emitFrames [(.valve a, valveBytes l ++ valveBytes r)]) (s.offerValves a l r)
      s.levels.faults.egressDrop (s.offerValves a l r).levels.faults.egressDrop := by
  unfold State.Offered State.offerValves State.offerSet
  cases (s.ports.get .d).admission .ordinary (s.emitFrames [(.valve a, valveBytes l ++ valveBytes r)]) <;> exact ⟨rfl, rfl⟩

/-- Offering a valve frame changes the ports and the level controller's EGRESS_DROP alone. -/
theorem State.offerValves_frame (s : State) (a : Axle) (l r : ValveCommand) :
    s.offerValves a l r = { s with
      ports := (s.offerValves a l r).ports
      levels := { s.levels with faults := { s.levels.faults with
        egressDrop := (s.offerValves a l r).levels.faults.egressDrop } } } := by
  unfold State.offerValves
  split
  · rename_i t h
    rw [State.offerSet_frame h]
  · rfl

/-- A door command is sent as R156 says. -/
theorem State.offerDoor_sends (s : State) (d : Door) (c : DoorCommand) : s.Sends d c (s.offerDoor d c) := by
  unfold State.Sends State.Offered State.takesDoor State.offerDoor State.offerSet
  show (match s.ports.d.admission .priority _ with | some y => _ | none => _) ∧ _
  cases h : s.ports.d.admission .priority (s.emitFrames [(.door d, byte (doorCommandCode c))]) with
  | none => simp [PerPort.get, h, State.latchDoor, State.door]
  | some y => simp [PerPort.get, h, State.setDoor, State.door, DoorRecord.admitted]

/-- Sending is judged by the queues, the tables, the last command and the EGRESS_DROP before it. -/
theorem State.Sends.of_agree {s s' t : State} {d : Door} {c : DoorCommand} (h : s'.Sends d c t)
    (ports : s'.ports = s.ports) (tables : s'.tables = s.tables)
    (last : (s'.door d).lastCommand = (s.door d).lastCommand)
    (drop : s'.doors.faults.egressDrop = s.doors.faults.egressDrop) : s.Sends d c t := by
  unfold State.Sends State.Offered State.takesDoor State.emitFrames State.emitFrame at *
  rwa [ports, State.emitEntry_congr tables, last, drop] at h

/-! ## The chassis state frame and the damping set -/

/-- The chassis state frame is offered as R55 says. -/
theorem State.offerChassis_offered (s : State) :
    s.Offered .u .ordinary (s.emitFrames [(.chassisState, s.chassisData)]) s.offerChassis s.board.faults.egressDrop
      s.offerChassis.board.faults.egressDrop := by
  unfold State.Offered State.offerChassis State.offerSet
  cases (s.ports.get .u).admission .ordinary (s.emitFrames [(.chassisState, s.chassisData)]) <;> exact ⟨rfl, rfl⟩

/-- Offering the chassis state frame changes the ports and the board's fault set alone. -/
theorem State.offerChassis_frame (s : State) : s.offerChassis = { s with
    ports := s.offerChassis.ports, board := { s.board with faults := s.offerChassis.board.faults } } := by
  unfold State.offerChassis
  split
  · rename_i t h
    rw [State.offerSet_frame h]
  · rfl

/-- The damping set is offered as R94 says. -/
theorem State.offerDamping_offered (s : State) :
    let level := fun j => byte (dampingCode (s.joints.records.get j).damping)
    s.Offered .d .ordinary (s.emitFrames [(.damp .j1, level .j1), (.damp .j2, level .j2)]) s.offerDamping
      s.joints.faults.egressDrop s.offerDamping.joints.faults.egressDrop := by
  intro level
  simp only [State.Offered, State.offerDamping, State.offerSet]
  cases h : (s.ports.get .d).admission .ordinary (s.emitFrames [(.damp .j1, level .j1), (.damp .j2, level .j2)]) <;>
    simp only [level] at h <;> simp only [and_self]

/-- Offering the damping set changes the ports and the joint unit's EGRESS_DROP alone. -/
theorem State.offerDamping_frame (s : State) : s.offerDamping = { s with
    ports := s.offerDamping.ports
    joints := { s.joints with faults := { s.joints.faults with
      egressDrop := s.offerDamping.joints.faults.egressDrop } } } := by
  simp only [State.offerDamping]
  split
  · rename_i t h
    rw [State.offerSet_frame h]
  · rfl

/-- The fields of a STATUS response fill bytes 3 to 30 (12.6). -/
@[simp] theorem State.statusFields_length (s : State) : s.statusFields.length = 28 := by
  simp [State.statusFields, epochBytes, State.faultBits, half, byte]

/-- A STATUS response fits the layouts' 64 bytes with the two reason sets behind its fields (R42). -/
@[simp] theorem State.statusPayload_length (s : State) : s.statusPayload.length = 30 := by
  simp [State.statusPayload, State.reasonBytes, byte]

/-! ## Brake pressures -/

/-- The emissions of a brake set change the echo records alone. -/
theorem State.brakesEmitted_frame (s : State) (p : PerAxle Nat) :
    s.brakesEmitted p = { s with echoes := (s.brakesEmitted p).echoes } := by
  refine State.eq_of_same fun b => ?_
  by_cases h : b = .echoes
  · subst h
    rfl
  · have := (State.brakesEmitted_changes s p).get b (by simpa using h)
    cases b <;> first | rfl | exact this

theorem anyFallback_iff (loads : PerAxle (Nat × LoadSource)) :
    anyFallback loads = true ↔ ∃ a, (loads.get a).2 = .fallback := by
  simp only [anyFallback, List.any_eq_true, decide_eq_true_eq]
  exact ⟨fun ⟨a, _, h⟩ => ⟨a, h⟩, fun ⟨a, h⟩ => ⟨a, by cases a <;> decide, h⟩⟩

theorem State.disagreeingAxles_isEmpty (s : State) :
    s.disagreeingAxles.isEmpty = true ↔ ∀ a, s.disagrees (.brake a) = false := by
  simp only [State.disagreeingAxles, List.isEmpty_iff, List.filter_eq_nil_iff, Bool.not_eq_true]
  exact ⟨fun h a => h a (by cases a <;> decide), fun h a _ => h a⟩

/-- The speed-limit map as a computation leaves it (R109). -/
theorem State.brakeLimit_frame (s : State) : s.brakeLimit = { s with board := { s.board with
    limits := { s.board.limits with
      brake := if s.disagreeingAxles.isEmpty then none else some (s.paramNat .limitBrake) } } } := by
  unfold State.brakeLimit
  split <;> rfl

/-- A pressure computation does what R99 and R103 to R109 say. -/
theorem State.computePressures_computed (s : State) (d : Nat) : s.Computed d false (s.computePressures d) := by
  let loads := PerAxle.ofFn s.axleLoad
  let data := fun a => half (s.axlePressure a (s.axleLoad a).1 d)
  let set := s.emitFrames [(.brake .a1, data .a1), (.brake .a2, data .a2), (.brake .a3, data .a3), (.brake .a4, data .a4)]
  have fell : anyFallback loads = true ↔ ∃ a, (s.axleLoad a).2 = .fallback := by
    simpa [loads] using anyFallback_iff loads
  have clear := s.disagreeingAxles_isEmpty
  have settled : (s.recordLoads loads).brakeLimit = { s with
      board := { s.board with limits := { s.board.limits with
        brake := if s.disagreeingAxles.isEmpty then none else some (s.paramNat .limitBrake) } }
      brakes := (s.recordLoads loads).brakes } := State.brakeLimit_frame _
  have posted : ∀ t : State, t.board.limits.brake = (if s.disagreeingAxles.isEmpty then none
      else some (s.paramNat .limitBrake)) →
      ((∃ a, s.disagrees (.brake a) = true) → t.board.limits.brake = some (s.paramNat .limitBrake))
        ∧ ((∀ a, s.disagrees (.brake a) = false) → t.board.limits.brake = none) := by
    intro t h
    rw [h]
    refine ⟨fun ⟨a, ha⟩ => if_neg fun c => ?_, fun c => if_pos (clear.2 c)⟩
    simp [clear.1 c a] at ha
  suffices h : ∀ t, s.computePressures d = t → s.Computed d false t from h _ rfl
  intro t ht
  simp only [State.computePressures, State.offerSet] at ht
  rw [show (s.recordLoads (PerAxle.ofFn s.axleLoad)).brakeLimit = _ from settled] at ht
  cases hA : (s.ports.get .d).admission .priority set with
  | none =>
    erw [hA] at ht
    obtain ⟨p, w⟩ := posted t (by rw [← ht]; rfl)
    subst ht
    exact ⟨fun a => by cases a <;> rfl, by simp [State.latchBrake, State.recordLoads, fell], p, w,
      by simp only [State.Offered]; erw [hA]; exact ⟨rfl, rfl⟩, by simp [State.latchBrake, State.recordLoads]⟩
  | some y =>
    erw [hA] at ht
    dsimp only at ht
    rw [State.brakesEmitted_frame] at ht
    obtain ⟨p, w⟩ := posted t (by rw [← ht])
    subst ht
    exact ⟨fun a => by cases a <;> rfl, by simp [State.recordLoads, fell], p, w,
      by simp only [State.Offered]; erw [hA]; exact ⟨rfl, rfl⟩, by simp [State.recordLoads]⟩

/-! ## Free order -/

theorem inAnyOrder_takes {α : Type} (take : State → α → State) (n : Nat) (es : List α) (s : State) (h : es.length ≤ n) :
    s.Takes take es (inAnyOrder (fun e s => take s e) n es s) := by
  induction n generalizing es s with
  | zero =>
    obtain rfl : es = [] := by cases es <;> simp_all
    exact ⟨[], by simp, rfl⟩
  | succ n ih =>
    match es, h with
    | [], _ => exact ⟨[], by simp, rfl⟩
    | [e], _ => exact ⟨[(e, s.orderCount)], by simp, rfl⟩
    | e :: f :: es, h =>
      simp only [inAnyOrder, State.drawOrder]
      set k := Config.pick s.orderCount % (es.length + 2)
      have size : (e :: f :: es).length = es.length + 2 := rfl
      have hk : k < (e :: f :: es).length := Nat.mod_lt _ (Nat.succ_pos _)
      rw [show ((e :: f :: es)[k]?).getD e = (e :: f :: es)[k] by simp [List.getElem?_eq_getElem hk]]
      obtain ⟨order, perm, ht⟩ := ih ((e :: f :: es).eraseIdx k)
        (take { s with orderCount := s.orderCount + 1 } (e :: f :: es)[k])
        (by rw [List.length_eraseIdx_of_lt hk]; omega)
      exact ⟨((e :: f :: es)[k], s.orderCount + 1) :: order,
        (perm.cons _).trans (List.getElem_cons_eraseIdx_perm hk), by simpa using ht⟩

/-- Events taken in a free order are each taken once, in one of their orders (log entry 4). -/
theorem State.takeAll_takes {α : Type} (s : State) (take : State → α → State) (es : List α) :
    s.Takes take es (s.takeAll (fun e s => take s e) es) := inAnyOrder_takes take _ es s le_rfl

/-- The slots that an entry fed last and that stand VALID (R13, R31). -/
theorem State.fedSlots_eq (s : State) (i : Fin 96) : s.fedSlots i =
    (List.finRange 64).filter fun j => decide (s.slots[j].source = some i ∧ s.slots[j].validity = .valid) := by
  simp [State.fedSlots, State.validSlots, List.filter_filter]

/-- The loss notices of some slots are each taken once (R31). -/
theorem State.takeLosses_takes (s : State) (b : Bool) (lost : SlotId → Bool) :
    s.Takes (fun x l => x.takeLoss b l) (lossesOf lost) (s.takeLosses b ((List.finRange 64).filter lost)) :=
  s.takeAll_takes _ _

/-! ## Positions (R190) -/

theorem positions_eq (n : TableName) (m : AdvanceMode) (count p : Nat) :
    positions n m count p = (List.range count).map fun k => (nextPosition n m)^[k] p := by
  induction count generalizing p with
  | zero => rfl
  | succ c ih => simp [positions, ih, List.range_succ_eq_map, Function.comp_def]

theorem positionAfter_eq (n : TableName) (m : AdvanceMode) (count p : Nat) :
    positionAfter n m count p = (nextPosition n m)^[count] p := by
  induction count generalizing p with
  | zero => rfl
  | succ c ih => simp [positionAfter, ih]

/-- A position inside its table is followed by one inside it. -/
theorem nextPosition_lt {n : TableName} {m : AdvanceMode} {p : Nat} (h : p < tableSize n) :
    nextPosition n m p < tableSize n := by
  cases m with
  | table =>
    simp only [nextPosition]
    split <;> omega
  | group =>
    simp only [nextPosition]
    split
    · rename_i e
      subst e
      have : tableSize .corner = 8 := rfl
      split <;> omega
    · exact h
  | fixed => exact h

end Sys2Proof.Machine
end

