-- ==== Sys2Proof/Tests/Slice0.lean ====
section
/-! SUPPORT. Tests of the model on small states, most of them from the manual's worked examples, and for every statement
with hypotheses a state and operands that meet them all. -/

namespace Sys2Proof.Tests

open Sys2Proof Sys2Proof.Machine

/-! ## Small states -/

/-- An EMIT entry; its identifier counts up from 0x200 with the kind's code. -/
def emits (kind : EmitKind) (echo : Option EchoSpec) : FitEntry :=
  { id := BitVec.ofNat 29 (0x200 + emitKindCode kind), forward := false, watch := 0, counter := none
    role := .emit kind echo }

/-- An arrival entry. -/
def arrives (p : Port) (id watch : Nat) (counter : Option Nat) (forward : Bool) (cls : ArrivalClass) (rw : Rewrite)
    (trigger : Trigger) (xs : List Extractor) : FitEntry :=
  { id := BitVec.ofNat 29 id, forward, watch, counter, role := .arrival p cls rw trigger xs }

/-- An extractor. -/
def takes (start width : Nat) (signed : Bool) (slot : SlotId) (low high : Int) : Extractor :=
  { start, width, signed, slot, minimum := BitVec.ofInt 32 low, maximum := BitVec.ofInt 32 high }

/-- A frame in extended format. -/
def frame (id : Nat) (data : List Byte) : Frame := { id := .ext (BitVec.ofNat 29 id), data }

/-- CONSTANTS of the tests; the values are those that the manual's examples share, as far as they give any. -/
def constants : Vector Int 32 :=
  #v[20, 20, 1, 30, 10, 250, 30, 50, 100, 3000, 5000, 8000, 10000, 200, 300, 200, 120, 1000, 300, 400, 80, 60, 3, 200,
     200, 250, 250, 300, 300, 350, 100, 400]

/-- The AXLE table of the example of 6.10, with the path distances and rates of that of 4.4. -/
def axles : Vector AxleParams 4 :=
  #v[⟨500, 140, 700, 60, 800, 0, 0⟩, ⟨600, 150, 900, 56, 800, 0, 0⟩, ⟨450, 150, 800, 60, 700, 1046, 40⟩,
     ⟨400, 150, 750, 64, 700, 2094, 40⟩]

/-- The CORNER entry of the example of 7.8. -/
def corner : CornerParams :=
  { kerb := false, rapid := true, pair := false, normal := 0, high := 60, kneel := -80, min := -90, max := 60, tb := 3
    db := 20, damping := 2, gain := 8, maxPulse := 150, window := 4 }

/-- Slots that hold values stored by entry 0. -/
def filled (slots : List (SlotId × Int)) : Vector SignalSlot 64 :=
  slots.foldl (fun v x => v.set x.1 { value := BitVec.ofInt 32 x.2, validity := .valid, source := some 0 })
    State.reset.slots

/-- A part in RUN with these FIT entries and VALID slots; no door is fitted and nothing else has happened. -/
def running (es : List FitEntry) (slots : List (SlotId × Int)) : State :=
  { State.reset with
    tables := { TableStore.reset with
      active := { fit := some es, schedule := some StagedTables.blank.schedule, axle := some axles
                  corner := some (Vector.replicate 8 corner), door := some StagedTables.blank.door
                  guard := some StagedTables.blank.guard, constants := some constants }
      partState := .run }
    slots := filled slots }

/-- The state after a command. -/
def next (s : State) (i : Instr) : State :=
  match exec i s with
  | .next t => t
  | .fault _ => s
  | .refused _ => s

/-- The state after several commands. -/
def after (s : State) (is : List Instr) : State := is.foldl next s

/-- The state with door D2 fitted, its record as given, and both of its members as asked for. -/
def withDoor (s : State) (r : DoorRecord) (member : Bool) : State :=
  { s with
    tables := { s.tables with active := { s.tables.active with
      door := some (StagedTables.blank.door.set 1
        { fitted := true, edge := .rise, debounce := 1, maxReversals := 1, mask := ⟨true, true, true, true, true, true⟩
          lockProof := 4000, releaseHold := 20000 }) } }
    doors := { s.doors with records := s.doors.records.set .d2 r }
    board := { s.board with
      haltSet := s.board.haltSet.put (.door .d2) member
      driveInhibit := s.board.driveInhibit.put (.door .d2) member } }

/-- The state with a schedule of the active SCHEDULE table replaced. -/
def withSchedule (s : State) (n : ScheduleName) (y : Schedule) : State :=
  { s with tables := { s.tables with active := { s.tables.active with
      schedule := (s.tables.active.schedule.map fun v => v.set n.index y) } } }

/-- The data of the frames that wait in Port U's ordinary queue. -/
def answers (s : State) : List (List Byte) := s.ports.u.ordinary.map Frame.data

/-! ## WellFormed refuses what no link controller delivers -/

theorem test_frame_of_65_bytes_refused :
    (Instr.frameArrival .u (frame 0x100 (List.replicate 65 0))).wellFormed = false := by decide

theorem test_frame_of_64_bytes_accepted :
    (Instr.frameArrival .u (frame 0x100 (List.replicate 64 0))).wellFormed = true := by decide

/-- Every management request with 64 bytes after its code is refused. -/
theorem test_requests_of_65_bytes_refused :
    (let r : List Byte := List.replicate 64 0
     [Instr.ident r, .status r, .read r, .write r, .swap r, .commit r, .hold r, .release r, .discard r, .events r,
      .resetArm r, .resetGo r].map Instr.wellFormed) = List.replicate 12 false := by decide

theorem test_bad_request_with_a_request_code_refused : (Instr.badRequest [12]).wellFormed = false := by decide

theorem test_bad_request_of_65_bytes_refused : (Instr.badRequest (List.replicate 65 0)).wellFormed = false := by decide

theorem test_bad_request_accepted : (Instr.badRequest [13]).wellFormed = true ∧ (Instr.badRequest []).wellFormed = true := by
  decide

/-! ## Requests are read from the frame's data -/

theorem test_request_codes :
    [1, 2, 3, 4, 5, 6, 7, 8, 9, 10, 11, 12].map (fun c : Byte => requestOfData [c, 7]) =
      [.ident [7], .status [7], .read [7], .write [7], .swap [7], .commit [7], .hold [7], .release [7], .discard [7],
       .events [7], .resetArm [7], .resetGo [7]] := by decide

theorem test_bad_request_codes :
    requestOfData [] = .badRequest [] ∧ requestOfData [0] = .badRequest [0] ∧ requestOfData [13, 1] = .badRequest [13, 1] := by
  decide

/-! ## Arithmetic (0, 6.3; worked examples of 4.2, 4.4, 4.6, 7.8) -/

theorem test_wd_across_the_wrap : wd 14 65530 = 20 ∧ wd 4 65500 = 40 ∧ wd 2021 2200 = -179 := by decide

theorem test_gain_schedule : scheduleAt #v[0, 1024, 960, 0, 0, 0, 0, 0, 0] 150 = 992 := by decide

theorem test_limit_schedule : scheduleAt #v[0, 4551, 2731, 0, 0, 0, 0, 0, 0] 150 = 3641 := by decide

theorem test_window_average : windowAverage [99, -12, -15, -9, -14] 4 = -12 := by decide

theorem test_fill_pulse : settleMode corner false (-12) = (.delta, .fill 80) := by decide

/-- The path heading between marks 47 and 48 of the example of 4.4, by its last two marks. -/
theorem test_path_heading : pathHeadingAt [⟨0, 2000⟩, ⟨20, 2030⟩] 20 14 = 2021 := by decide

/-- The rate stage of the example below R79, where the limit has fallen under the last command. -/
theorem test_limit_escape :
    (let s := withSchedule (running [] [(0, 0)]) .limA3 (Vector.replicate 9 700)
     (s.setRear .a3 { mode := .centre, lastAngle := 900 }).rearCommand .a3 .centre) = (.lock, true) := by decide

/-! ## Resets and link reports -/

theorem test_power_on : (next (running [] []) (.powerOn 5)).node = 5
    ∧ (next (running [] []) (.powerOn 5)).inRun = false := by decide

theorem test_reset_line : (next (running [] []) (.resetLine 2)).path.cycle.timer = some 10 := by decide

/-- R2 and R3: a port whose bus is off keeps nothing and admits nothing until it recovers. -/
theorem test_bus_off_and_recovery :
    (let s := next (next State.reset (.ident [])) (.busOff .u)
     (s.ports.u, s.path.faults.portBusOffU, (next s (.recovery .u)).ports.u)) =
      ({ link := .busOff, priority := [], ordinary := [], offer := .empty }, true, .reset) := by decide

/-- The priority queue of the worked sequence of 1.7 before its third row. -/
def loaded : State :=
  let offer := fun (s : State) (fs : List Frame) => (s.offerSet .d .priority fs).getD s
  let s := offer State.reset [frame 0x200 [1], frame 0x201 [1]]
  offer s [frame 0x204 [1], frame 0x205 [1], frame 0x206 [1], frame 0x207 [1]]

/-- Rows 3, 5 and 8 of the sequence: a renewed frame is offered again with its new content, and a ninth frame is
refused. -/
theorem test_priority_queue_under_load :
    (let offer := fun (s : State) (fs : List Frame) => (s.offerSet .d .priority fs).getD s
     let s := offer loaded [frame 0x200 [2], frame 0x201 [2]]
     let t := next s (.transmitComplete .d)
     let u := offer t [frame 0x20D [1], frame 0x20E [1]]
     (s.ports.d.offer, t.ports.d.offer, t.ports.d.priority.length, u.ports.d.priority.length,
      u.offerSet .d .priority [frame 0x20F [1]])) =
      (.onOffer .priority (frame 0x200 [1]) true, .onOffer .priority (frame 0x200 [2]) false, 6, 8, none) := by decide

theorem test_transmit_complete_removes :
    (next loaded (.transmitComplete .d)).ports.d.offer = .onOffer .priority (frame 0x201 [1]) false
      ∧ (next loaded (.transmitComplete .d)).ports.d.priority.length = 5 := by decide

/-! ## Arrivals: the worked sequence of 1.4 -/

/-- The entry of the sequence: a counter at bit 16, HEIGHT_2L, a watch of 50 ms. -/
def heightEntry : FitEntry :=
  arrives .d 0x101 50 (some 16) false .status .noRewrite .noTrigger [takes 0 16 true 9 (-250) 250]

/-- An arrival of the sequence with a height and a counter value. -/
def height (h : Int) (counter : Nat) : Instr := .frameArrival .d (frame 0x101 (halfInt h ++ byte counter))

/-- What the sequence's table shows of a state. -/
def shown (s : State) : Int × Validity × EntryRecord :=
  (s.slots[(9 : SlotId)].value.toInt, s.slots[(9 : SlotId)].validity, s.path.entries[(0 : Fin 96)])

theorem test_counter_sequence :
    shown (after (running [heightEntry] []) [height (-12) 3, height (-14) 4, height (-14) 4, height (-15) 6]) =
        (-15, .valid, { counter := some 6, watch := some 50 })
      ∧ (after (running [heightEntry] []) [height (-12) 3, height (-14) 4, height (-14) 4]).path.faults =
        { PathFaults.empty with counterRepeat := true } := by decide

theorem test_implausible_arrival_and_watch :
    (let s := after (running [heightEntry] []) [height (-15) 6, height 300 7]
     let t := next s (.watchExpiry 0)
     (shown s, shown t, t.path.faults)) =
      ((-15, .stale, { counter := none, watch := some 50 }), (-15, .stale, { counter := none, watch := none }),
       { PathFaults.empty with plausibility := true, statusLost := true }) := by decide

/-! ## Cycle marks and the other timers -/

/-- R55 and R56: a mark in CONFIGURING sends nothing. -/
theorem test_mark_while_configuring :
    answers (next State.reset .cycleTimerExpiry) = [] ∧ (next State.reset .cycleTimerExpiry).path.cycle.timer = some 10 := by
  decide

/-- R180: a schedule committed in CONFIGURING is applied at the next mark. -/
theorem test_application :
    (let s := next State.reset (.commit (0 :: 1 :: half (State.reset.tables.sums.get .schedule).toNat))
     let t := next s .cycleTimerExpiry
     (s.tables.waiting.schedule, t.tables.active.schedule, t.tables.epochs.schedule, t.tables.outcome.result)) =
      (true, some StagedTables.blank.schedule, 1, .applied) := by decide

/-- R169 and R170: the third expiry without an echo is a disagreement. -/
theorem test_echo_timer :
    (let s := running [emits (.brake .a2) (some { slot := 46, tolerance := 10, deadline := 80 })] []
     let s0 := s.setEcho (.brake .a2) { EchoRecord.reset with newest := some 250, timer := some 0 }
     let k : Instr := .echoTimerExpiry (.brake .a2)
     let state := fun (s : State) => (s.echoes.records.get (.brake .a2)).state
     (state (after s0 [k, k]), state (after s0 [k, k, k]), (after s0 [k, k, k]).echoes.faults.axleDisagree)) =
      (.agree, .disagree, true) := by decide

theorem test_active_since :
    (let s := (running [] []).setCorner .c2L { CornerRecord.reset with mode := .delta, activeSince := some 0 }
     let t := next s (.activeSinceExpiry .c2L)
     (t.levels.corners.c2L.slow, t.levels.corners.c2L.activeSince, t.board.limits.levelSlow)) =
      (true, none, some 350) := by decide

/-- R142: a lowering that lasts too long is paused. -/
theorem test_kneel_deadline :
    (let s := (running [] []).setKneel fun k => { k with state := .lowering, deadline := some 0 }
     let t := next s .kneelDeadlineExpiry
     (t.kneel.state, t.kneel.deadline, t.kneel.faults.kneelTimeout)) = (.paused, none, true) := by decide

/-- R140: a kneel that is not allowed in time is dropped. -/
theorem test_kneel_arm_timer :
    (let s := (running [] []).setKneel fun k => { k with state := .arming, armTimer := some 0 }
     let t := next s .kneelArmTimerExpiry
     (t.kneel.state, t.kneel.faults.armTimeout, t.board.haltSet.kneel)) = (.ride, true, false) := by decide

/-- R158: a door not released in time is disarmed and its members go. -/
theorem test_door_arm_timer :
    (let s := withDoor (running [] []) { DoorRecord.reset .locked with armed := true, armTimer := some 0 } true
     let t := next s (.doorArmTimerExpiry .d2)
     ((t.door .d2).armed, t.doors.faults.armTimeout, t.board.haltSet.doors.d2)) = (false, true, false) := by decide

/-- R161: a door that is not locked in time is UNPROVEN, and its event is latched. -/
theorem test_lock_proof :
    (let s := withDoor (running [emits (.door .d2) none] []) { DoorRecord.reset .closing with lockProof := some 0 } true
     let t := next s (.lockProofExpiry .d2)
     ((t.door .d2).state, (t.door .d2).latch.lockNotProven, (t.door .d2).lastCommand)) =
      (.unproven, true, some .hold) := by decide

/-- R159: a released door that stays shut is closed again, and its lock is awaited (R161). -/
theorem test_release_hold :
    (let s := withDoor (running [emits (.door .d2) none] []) { DoorRecord.reset .released with releaseHold := some 0 } true
     let t := next s (.releaseHoldExpiry .d2)
     ((t.door .d2).state, (t.door .d2).lastCommand, (t.door .d2).lockProof)) =
      (.closing, some .close, some 4000) := by decide

theorem test_reset_arm_timer :
    (next (next State.reset (.resetArm [])) .resetArmTimerExpiry).agent.resetArm = none := by decide

/-! ## Steering, joints, brakes: worked examples of 4.1, 4.6, 6.10 -/

/-- The last marks of the queue of 4.1. -/
def track : Track :=
  { marks := [⟨49980, 0⟩, ⟨50000, 0⟩], lastOdo := some 50000, nextPos := 50020 }

theorem test_laying_marks :
    let t := (track.sample 20 50065 (some 7)).1
    t.marks.map TrackMark.position = [49980, 50000, 50020, 50040, 50060] ∧ t.lastOdo = some 50065 ∧ t.nextPos = 50080
      ∧ (t.sample 20 50063 (some 7)).1 = t := by decide

theorem test_broken_track :
    (let t : Track := { track with lastOdo := some 50230, nextPos := 50240 }
     t.sample 20 50430 (some 7)) = ({ marks := [⟨50430, 7⟩], lastOdo := some 50430, nextPos := 50450 }, true) := by decide

/-- A state with the schedules of the limiter's example at 300 and at 800. -/
def limiting (slots : List (SlotId × Int)) (record : Option Int) : State :=
  let s := withSchedule (withSchedule (running [] slots) .limA1 #v[0, 0, 0, 2000, 0, 0, 0, 0, 600]) .rateA1
    #v[1, 1, 1, 120, 1, 1, 1, 1, 40]
  { s with steering := { s.steering with limiter := record } }

theorem test_limiter :
    (limiting [(0, 300), (4, 65436)] none).limitFront 2600 = 20
      ∧ (limiting [(0, 300), (4, 65436)] (some 140)).limitFront 2600 = 260
      ∧ (limiting [(4, 65436)] (some 260)).limitFront 2600 = 300 := by decide

/-- The bag pressures of the example of 6.10. -/
def pressures : List (SlotId × Int) :=
  [(15, 380), (16, 390), (17, 420), (18, 410), (19, 300), (20, 310), (21, 280)]

theorem test_loads :
    (PerAxle.all.map (running [] pressures).axleLoad) =
      [(921, .pressures), (1086, .pressures), (807, .pressures), (750, .fallback)] := by decide

/-- Case 1 of the example: halt is not active and the stretch record holds 0, 0, 80, 80. -/
def descent : State :=
  let s := running [] pressures
  { s with board := { s.board with haltSet := { s.board.haltSet with kneel := false }, haltLatch := false
                                   stretch := ⟨0, 0, 80, 80⟩ } }

theorem test_service_pressures :
    [descent.axlePressure .a1 921 250, descent.axlePressure .a2 1086 250, descent.axlePressure .a3 807 250,
     descent.axlePressure .a4 750 250] = [210, 231, 264, 263] := by decide

theorem test_halt_pressures :
    [(running [] []).axlePressure .a1 921 40, (running [] []).axlePressure .a4 750 40] = [250, 250] := by decide

/-- Rows 3, 4 and 8 of the sequence of 6.10: A3 in DISAGREE is not read, every other echo counts. -/
theorem test_halt_confirmed :
    (let fit := PerAxle.all.map fun a => emits (.brake a) (some { slot := slotBrakeEcho a, tolerance := 10, deadline := 80 })
     let s := fun slots => ((running fit slots).setEcho (.brake .a3) { EchoRecord.reset with state := .disagree }).haltVerdict
     [s [(45, 246), (46, 248), (47, 0), (48, 48)], s [(45, 246), (46, 248), (47, 0), (48, 243)],
      s [(46, 248), (47, 0), (48, 249)]]) = [false, true, false] := by decide

/-- The rule set of 2.4: a lost voltage report leaves the gate open, a lost platform report closes it. -/
theorem test_guard_rules :
    (let rule3 : GuardRule := { enabled := true, swap := false, gate := .doorRelease, slot := 49, predicate := .eq, constant := 1 }
     let rule7 : GuardRule := { rule3 with slot := 53, predicate := .nlt, constant := 220 }
     let s := fun slots =>
       let s := running [] slots
       { s with tables := { s.tables with active := { s.tables.active with
           guard := some ((StagedTables.blank.guard.set 3 rule3).set 7 rule7) } } }
     [(s [(49, 1), (53, 236)]).rulePart .doorRelease, (s [(49, 1)]).rulePart .doorRelease,
      (s [(49, 1), (53, 205)]).rulePart .doorRelease, (s [(53, 236)]).rulePart .doorRelease]) =
      [true, true, false, false] := by decide

/-! ## Management requests (12.2 to 12.6) -/

theorem test_ident : answers (next State.reset (.ident [7, 1])) = [[1, 7, 0, 0x24, 0x05, 0x10]] := by decide

/-- After power-on nothing is latched, and KNEEL stands in both reason sets; 33 bytes go out as 48 (R187). -/
theorem test_status :
    answers (next State.reset (.status [7, 0])) = [2 :: 7 :: List.replicate 29 0 ++ [32, 32] ++ List.replicate 15 0]
      ∧ (answers (next State.reset (.status [7, 2]))) = [[2, 7, 2]] := by decide

/-- A READ of the staged LIMIT_SYNC and of the blank PITCH, two parameters apart in code and place. -/
theorem test_read :
    answers (next State.reset (.read [7, 6, 1, 1])) = [[3, 7, 0, 1, 1, 10, 0, 0, 0, 0, 0, 0]]
      ∧ answers (next State.reset (.read [7, 0x46, 1, 1])) = [[3, 7, 3]] := by decide

/-- R173: a PITCH of 60 is written as 50 and counted. -/
theorem test_write :
    (let t := next State.reset (.write [7, 6, 1, 1, 60, 0, 0, 0])
     ((answers t).map fun d => d.take 6, t.tables.staged.constants[(1 : Fin 32)], t.agent.cursor.index)) =
      ([[4, 7, 0, 1, 1, 1]], 50, 2) := by decide

/-- R193: a SWAP whose check differs changes nothing, and answers the entry's check and image. -/
theorem test_swap :
    answers (next State.reset (.swap [7, 6, 1, 11, 0, 20, 0, 0, 0])) = [[5, 7, 11, 10, 0, 10, 0, 0, 0, 0, 0, 0]]
      ∧ (next State.reset (.swap [7, 6, 1, 10, 0, 20, 0, 0, 0])).tables.staged.constants[(1 : Fin 32)] = 20 := by decide

/-- R187: the length and the count are judged before the table. A count of 15 is more than any table allows and three bytes
are no image of any; the shortest SWAP image ends the frame at byte 10. -/
theorem test_request_judged_before_table :
    (answers (next State.reset (.read [7, 7, 0, 15])), answers (next State.reset (.read [7, 7, 0, 14]))) =
        ([[3, 7, 2]], [[3, 7, 3]])
      ∧ (answers (next State.reset (.write [7, 7, 0, 1, 0, 0, 0])), answers (next State.reset (.write [7, 7, 0, 1, 0, 0, 0, 0]))) =
        ([[4, 7, 2]], [[4, 7, 3]])
      ∧ (answers (next State.reset (.swap (7 :: 7 :: List.replicate 6 0))),
          answers (next State.reset (.swap (7 :: 7 :: List.replicate 7 0)))) = ([[5, 7, 2]], [[5, 7, 3]]) := by decide

/-- R177: the blank FIT is INCOMPLETE, and blank AXLE and CONSTANTS have no track geometry. -/
theorem test_commit :
    answers (next State.reset (.commit (7 :: 0 :: half (State.reset.tables.sums.get .fit).toNat))) = [[6, 7, 9]]
      ∧ answers (next State.reset (.commit (7 :: 2 :: half (State.reset.tables.sums.get .axle).toNat))) = [[6, 7, 10]] := by
  decide

theorem test_hold_release :
    (next State.reset (.hold [7])).tables.hold = true ∧ (after State.reset [.hold [7], .release [7]]).tables.hold = false := by
  decide

theorem test_release_answer : (answers (next State.reset (.release [7]))) = [[8, 7, 0]] := by decide

theorem test_discard :
    (let s := after State.reset [.commit (0 :: 1 :: half (State.reset.tables.sums.get .schedule).toNat), .discard [7, 0]]
     (s.tables.waiting.schedule, s.tables.outcome.result, s.tables.outcome.tables.schedule)) =
      (false, .cancelled, true) := by decide

theorem test_events :
    (let s := withDoor (running [] []) { DoorRecord.reset .closing with latch := ⟨true, false, false, false, false, true⟩
                                                                        lastCommand := some .close } true
     let t := next s (.events [7, 2, 1])
     (answers t, (t.door .d2).latch)) =
      ([[10, 7, 0, 2, 0, 0, 0, 33, 5, 4, 0, 0, 0, 0, 0, 0, 0, 0, 0, 0]], .empty) := by decide

theorem test_reset_arm : (next State.reset (.resetArm [7])).agent.resetArm = some 500 := by decide

/-- R196: a RESET_GO is performed where the record is ARMED, and only there. -/
theorem test_reset_go :
    answers (next State.reset (.resetGo [7])) = [[12, 7, 12]]
      ∧ answers (after State.reset [.resetArm [7], .transmitComplete .u, .resetGo [7]]) = [[12, 7, 0]] := by decide

theorem test_bad_request : answers (next State.reset (.badRequest [99, 5])) = [[99, 5, 2]] := by decide

/-! ## Witnesses: states and operands that meet the hypotheses of the statements

Each theorem is named after the statement whose hypotheses it meets, clause by clause, with boundary values where a range
is meant. -/

/-- Where a queue takes responses one at a time, each of them leaves the port as some `q`. -/
theorem answers_each {s : State} {responses : List (List Byte)}
    (h : (responses.all fun data =>
      (s.ports.u.admission .ordinary [{ id := .ext (responseId s.node), data := padFd data }]).isSome) = true) :
    ∀ data ∈ responses, ∃ q, s.Answers data q :=
  fun data m => Option.isSome_iff_exists.mp (List.all_eq_true.mp h data m)

/-- A port whose bus is off is sound when nothing waits there. -/
theorem silent_sound : PortState.Sound { link := .busOff, priority := [], ordinary := [], offer := .empty } where
  priorityFits := by decide
  ordinaryFits := by decide
  priorityDistinct := by decide
  ordinaryDistinct := by decide
  silent := fun _ => ⟨rfl, rfl, rfl⟩
  offered := fun h => by cases h

/-- A port that offers the first of the two steer frames is sound. -/
theorem offering_sound :
    PortState.Sound { link := .active, priority := [frame 0x200 [1], frame 0x201 [1]], ordinary := []
                      offer := .onOffer .priority (frame 0x200 [1]) false } where
  priorityFits := by decide
  ordinaryFits := by decide
  priorityDistinct := by decide
  ordinaryDistinct := by decide
  silent := fun h => by cases h
  offered := ⟨rfl, fun _ => rfl⟩

/-- A part whose Port U is BUS_OFF. -/
def silentU (s : State) : State := next s (.busOff .u)

/-- A part whose Port D offers a steer frame. -/
def offeringD (s : State) : State :=
  { s with ports := { s.ports with d := { link := .active, priority := [frame 0x200 [1], frame 0x201 [1]], ordinary := []
                                          offer := .onOffer .priority (frame 0x200 [1]) false } } }

theorem witness_StepOnEmptyQueue :
    (State.reset.pending = [] ∧ State.reset.dueExpiries = [])
      ∧ (let s := State.reset.setCycleTimer (some 0)
         s.pending = [] ∧ s.dueExpiries ≠ []) := by decide

/-- Armed with one millisecond left: in CONFIGURING, and in RUN at a speed just below stationary, with every kind of offer
record. -/
theorem witness_InBandReset :
    (let s := next State.reset (.resetArm [])
     s.agent.resetArm ≠ none ∧ s.inRun = false ∧ s.ports.u.link = .active ∧ (∀ n ∈ PerTable.all, s.tables.waiting.get n = false)
       ∧ s.ports.d.offer = .empty ∧ s.ports.u.offer = .onOffer .ordinary (frame 0x1D5C0001 [11, 0, 0]) false)
      ∧ (let r := offeringD (running [] [(0, 9)])
         let s := { r with
           ports := { r.ports with u := { PortState.reset with offer := .awaiting (frame 0x200 [1]) } }
           tables := { r.tables with waiting := r.tables.waiting.set .guard true }
           agent := { r.agent with resetArm := some 1 } }
         s.agent.resetArm ≠ none ∧ s.inRun = true ∧ s.stationary = true ∧ s.ports.u.link = .active
           ∧ s.tables.waiting.get .guard = true ∧ s.ports.u.offer = .awaiting (frame 0x200 [1])
           ∧ s.ports.d.offer = .onOffer .priority (frame 0x200 [1]) false)
      ∧ (let s := { State.reset with agent := { State.reset.agent with resetArm := some 1 } }
         s.agent.resetArm ≠ none ∧ s.ports.u.offer = .empty) := by decide

theorem witness_BusOffReport :
    (State.reset.ports.get .u).link = .active ∧ ((silentU State.reset).ports.get .u).link = .busOff := by decide

theorem witness_RecoveryReport :
    ((silentU State.reset).ports.get .u).Sound ∧ ((silentU State.reset).ports.get .u).link = .busOff
      ∧ ((offeringD State.reset).ports.get .d).Sound ∧ ((offeringD State.reset).ports.get .d).link = .active :=
  ⟨silent_sound, rfl, offering_sound, rfl⟩

/-- The queue of a renewed frame has a head. -/
theorem witness_TransmitCompleteReport :
    (let x := { (offeringD State.reset).ports.d with offer := .onOffer .priority (frame 0x200 [0]) true }
     x.offer = .onOffer .priority (frame 0x200 [0]) true ∧ (x.queue .priority).head? = some (frame 0x200 [1])) := by decide

/-- A set of one waiting and one new frame, at a queue with one place left and at a full one; with nothing on offer, an offer
that awaits completion, one that the set replaces, and one of the other queue. -/
theorem witness_AdmissionRule :
    (let waiting := (List.range 7).map fun i => frame i [0]
     let fs := [frame 6 [1], frame 7 [1]]
     let x : PortState := { link := .active, priority := waiting, ordinary := [], offer := .awaiting (frame 0 [0]) }
     (x.admission .priority fs).isSome = true ∧ (fs.map Frame.id).Nodup ∧ (x.queue .priority)[0]? = some (frame 0 [0])
       ∧ (frame 0 [0]).id ∉ fs.map Frame.id ∧ x.admission .priority (frame 8 [0] :: fs) = none)
      ∧ (let fs := [frame 6 [1], frame 7 [1]]
         let x := fun offer => ({ link := .active, priority := [frame 6 [0]], ordinary := [frame 6 [2]], offer } : PortState)
         let after := fun offer => ((x offer).admission .priority fs).map fun y => (y.priority, y.offer)
         let queued := [frame 6 [1], frame 7 [1]]
         after .empty = some (queued, .onOffer .priority (frame 6 [1]) false)
           ∧ after (.awaiting (frame 6 [0])) = some (queued, .awaiting (frame 6 [0]))
           ∧ after (.onOffer .priority (frame 6 [0]) false) = some (queued, .onOffer .priority (frame 6 [0]) true)
           ∧ after (.onOffer .ordinary (frame 6 [2]) false) = some (queued, .onOffer .ordinary (frame 6 [2]) false)) := by decide

theorem witness_SilentWhileBusOff :
    ∃ t, ((silentU State.reset).ports.get .u).Sound ∧ ((silentU State.reset).ports.get .u).link = .busOff
      ∧ Instr.status [1, 0] ≠ .recovery .u ∧ (∀ straps, Instr.status [1, 0] ≠ .powerOn straps)
      ∧ (∀ straps, Instr.status [1, 0] ≠ .resetLine straps) ∧ exec (.status [1, 0]) (silentU State.reset) = .next t :=
  ⟨_, silent_sound, rfl, nofun, nofun, nofun, rfl⟩

/-- Both ports sound, and a transmit-complete report in front. -/
theorem witness_PortsStaySound :
    ∃ s t : State, s.portsSound ∧ step s = .next t :=
  ⟨{ offeringD (silentU State.reset) with pending := [.transmitComplete .d] }, _,
    fun p => match p with
      | .u => silent_sound
      | .d => offering_sound, rfl⟩

/-! ### Arrivals -/

theorem witness_ConfiguringDiscards :
    State.reset.inRun = false ∧ State.reset.isManagement .u (frame 0x100 []).id = false
      ∧ State.reset.isManagement .d (.ext (requestId State.reset.node)) = false := by decide

/-- The shortest request, the longest, and the frame without data. -/
theorem witness_ManagementFrame :
    (Instr.ident []).wellFormed = true ∧ requestData (.ident []) = some [1]
      ∧ (Instr.write (List.replicate 63 0)).wellFormed = true
      ∧ requestData (.write (List.replicate 63 0)) = some (4 :: List.replicate 63 0)
      ∧ (Instr.badRequest []).wellFormed = true ∧ requestData (.badRequest []) = some []
      ∧ State.reset.ports.u.link = .active := by decide

/-- On both ports; upward forwarding off, forbidden, allowed and admitted, and allowed and refused. -/
theorem witness_UnmatchedArrival :
    (let s := running [emits .chassisState none] []
     let f := frame 0x300 [1]
     let off := { s with tables := { s.tables with active := { s.tables.active with constants := some blankConstants } } }
     s.inRun = true ∧ (∀ p ∈ PerPort.all, (s.ports.get p).link = .active ∧ s.isManagement p f.id = false
         ∧ s.matchEntry p f.id = none)
       ∧ off.param .defaultUpward ≠ 1 ∧ off.inRun = true ∧ off.matchEntry .d f.id = none
       ∧ s.neverForwarded (frame 0x211 []).id = true ∧ s.matchEntry .d (frame 0x211 []).id = none
       ∧ s.param .defaultUpward = 1 ∧ s.neverForwarded f.id = false ∧ (s.ports.u.admission .ordinary [f]).isSome = true
       ∧ (silentU s).inRun = true ∧ ((silentU s).ports.get .d).link = .active
       ∧ (silentU s).ports.u.admission .ordinary [f] = none) := by decide

/-- The state before the third arrival of the sequence of 1.4. -/
def counted : State := after (running [heightEntry] []) [height (-12) 3, height (-14) 4]

/-- The entry of the sequence as the classifier takes it apart. -/
def heightMatch : Matched :=
  { place := 0, entry := heightEntry, cls := .status, rewrite := .noRewrite, trigger := .noTrigger
    extractors := [takes 0 16 true 9 (-250) 250] }

/-- Three data bytes reach the counter at bits 16 to 19, two do not. -/
theorem witness_DiscardedArrivals :
    (let f := fun n => frame 0x101 (List.replicate n 4)
     counted.Matches .d (f 2) heightMatch ∧ heightMatch.tooShort (f 2).data.length
       ∧ counted.Matches .d (f 3) heightMatch ∧ ¬ heightMatch.tooShort (f 3).data.length
       ∧ heightMatch.entry.counter = some 16 ∧ counted.path.entries[heightMatch.place].counter = some 4
       ∧ fieldNat (f 3).data 16 4 = (4 : BitVec 4).toNat) := by
  refine ⟨⟨?_, ?_, ?_, ?_, ?_⟩, Or.inl ⟨16, ?_, ?_⟩, ⟨?_, ?_, ?_, ?_, ?_⟩, ?_, ?_, ?_, ?_⟩
  rotate_left 12
  · rintro (⟨start, h, h'⟩ | ⟨h, -⟩ | ⟨x, h, h'⟩)
    · cases h
      revert h'
      decide
    · cases h
    · cases h with
      | head => revert h'; decide
      | tail _ h => cases h
  all_goals decide

/-- An arrival of the entry with a counter that steps by one, accepted. -/
theorem accepts_height : counted.Accepts .d (frame 0x101 [0xF1, 0xFF, 5]) heightMatch where
  matched := { run := by decide, active := by decide, notManagement := by decide, place := by decide, entry := by decide }
  longEnough := by
    rintro (⟨start, h, h'⟩ | ⟨h, -⟩ | ⟨x, h, h'⟩)
    · cases h
      revert h'
      decide
    · cases h
    · cases h with
      | head => revert h'; decide
      | tail _ h => cases h
  counter := by
    intro start h
    cases h
    decide

/-- An entry that makes cycle marks, and the entry taken apart. -/
def syncMatch : Matched :=
  { place := 0, cls := .sync, rewrite := .noRewrite, trigger := .noTrigger, extractors := []
    entry := arrives .u 0x100 100 none false .sync .noRewrite .noTrigger [] }

/-- A part in RUN with a SYNC entry, these slots, this cycle mark source and this pending set. -/
def synced (slots : List (SlotId × Int)) (source : CycleSource) (waiting : PerTable Bool) : State :=
  let s := running [syncMatch.entry] slots
  { s with path := { s.path with cycle := source }, tables := { s.tables with waiting } }

/-- An entry without a counter, a rewrite and extractors is satisfied by any length. -/
theorem sync_long_enough : ¬ syncMatch.tooShort 0 := by
  rintro (⟨start, h, -⟩ | ⟨h, -⟩ | ⟨x, h, -⟩) <;> cases h

/-- A SYNC arrival accepted, whatever the source and the pending set. -/
theorem accepts_sync (slots : List (SlotId × Int)) (source : CycleSource) (waiting : PerTable Bool) :
    (synced slots source waiting).Accepts .u (frame 0x100 []) syncMatch :=
  ⟨⟨rfl, rfl, rfl, rfl, rfl⟩, sync_long_enough, nofun⟩

/-- The source in FREE_RUN with SYNC posted. -/
def lostSync : CycleSource := { sync := .freeRun, timer := some 3, syncPosted := true }

/-- The source that follows SYNC. -/
def following : CycleSource := { sync := .followingSync, timer := none, syncPosted := false }

/-- A pending set of one table. -/
def only (n : TableName) : PerTable Bool := (PerTable.const false).set n true

/-- The counter record holds a value, so the jump is judged; in the state before the first arrival it holds none. A SYNC
arrival with nothing pending, and one whose FIT is refused at 1 km/h. -/
theorem witness_AcceptedArrival :
    counted.Accepts .d (frame 0x101 [0xF1, 0xFF, 5]) heightMatch ∧ heightMatch.cls ≠ .sync
      ∧ heightMatch.entry.counter = some 16 ∧ counted.path.entries[heightMatch.place].counter = some 4
      ∧ (running [heightEntry] []).path.entries[heightMatch.place].counter = none
      ∧ (synced [] lostSync (PerTable.const false)).Accepts .u (frame 0x100 []) syncMatch
      ∧ (synced [(0, 10)] lostSync (only .fit)).Accepts .u (frame 0x100 []) syncMatch
      ∧ (synced [(0, 10)] lostSync (only .fit)).stationary = false :=
  ⟨accepts_height, nofun, rfl, by decide, rfl, accepts_sync _ _ _, accepts_sync _ _ _, by decide⟩

/-- An entry with a trigger and one extractor into GENERAL_0, and the entry taken apart. -/
def triggerMatch (trigger : Trigger) : Matched :=
  { place := 0, cls := .sample, rewrite := .noRewrite, trigger, extractors := [takes 0 8 false 49 0 255]
    entry := arrives .d 0x110 0 none false .sample .noRewrite trigger [takes 0 8 false 49 0 255] }

/-- An entry without a trigger that feeds TRACTION_DEMAND, and the entry taken apart. -/
def tractionMatch : Matched :=
  { place := 0, cls := .command, rewrite := .noRewrite, trigger := .noTrigger, extractors := [takes 0 16 true 24 (-1000) 1000]
    entry := arrives .u 0x105 0 none false .command .noRewrite .noTrigger [takes 0 16 true 24 (-1000) 1000] }

theorem accepts_traction : (running [tractionMatch.entry] []).Accepts .u (frame 0x105 [80, 0]) tractionMatch := by
  refine ⟨⟨rfl, rfl, rfl, rfl, rfl⟩, ?_, nofun⟩
  rintro (⟨start, h, -⟩ | ⟨h, -⟩ | ⟨x, h, h'⟩)
  · cases h
  · cases h
  · cases h with
    | head => revert h'; show ¬ (8 * 2 < 0 + 16); decide
    | tail _ h => cases h

/-- A COMMAND entry with a clamped field at its first two bytes, forwarded or not, and the entry taken apart. -/
def clampMatch (forward : Bool) : Matched :=
  { place := 0, cls := .command, rewrite := .clampFront 0 16, trigger := .noTrigger, extractors := []
    entry := arrives .u 0x104 0 none forward .command (.clampFront 0 16) .noTrigger [] }

/-- Two data bytes reach the end of the clamped field. -/
theorem accepts_clamp (forward : Bool) :
    (running [(clampMatch forward).entry] []).Accepts .u (frame 0x104 [40, 10]) (clampMatch forward) := by
  refine ⟨⟨rfl, rfl, rfl, rfl, rfl⟩, ?_, nofun⟩
  rintro (⟨start, h, -⟩ | ⟨-, h⟩ | ⟨x, h, -⟩)
  · cases h
  · revert h
    show ¬ (8 * 2 < 0 + 16)
    decide
  · cases h

/-- For every trigger, an arrival that fires it and stores a slot without notices; an arrival with one notice; one that is
forwarded, one that is not, and an identifier that never is; SYNC arrivals that apply a FIT and that do not. -/
theorem witness_ArrivalFrames (trigger : Trigger) :
    (running [(triggerMatch trigger).entry] []).Accepts .d (frame 0x110 [1]) (triggerMatch trigger)
      ∧ (triggerMatch trigger).cls ≠ .sync
      ∧ (∀ x ∈ (triggerMatch trigger).extractors,
          lossOf x.slot = none ∧ (running [(triggerMatch trigger).entry] []).slotNotices x.slot = [])
      ∧ (running [tractionMatch.entry] []).Accepts .u (frame 0x105 [80, 0]) tractionMatch ∧ tractionMatch.cls ≠ .sync
      ∧ (let s := running [tractionMatch.entry] []
         let x := s.extract 0 tractionMatch.extractors [80, 0]
         x.stored.flatMap s.slotNotices ++ (x.lost.filterMap lossOf).map .loss = [.traction])
      ∧ ((∀ b, (running [(clampMatch b).entry] []).Accepts .u (frame 0x104 [40, 10]) (clampMatch b))
        ∧ (let s := running [(clampMatch true).entry] []
           (clampMatch true).entry.forward = true ∧ (clampMatch false).entry.forward = false
             ∧ s.neverForwarded (frame 0x104 []).id = false ∧ s.neverForwarded (frame 0x1D5C0001 []).id = true))
      ∧ (∀ speed waiting, (synced [(0, speed)] following waiting).Accepts .u (frame 0x100 []) syncMatch)
      ∧ (syncMatch.cls = .sync ∧ (synced [(0, 9)] following (only .fit)).stationary = true
        ∧ (synced [(0, 10)] following (only .fit)).stationary = false ∧ (only .fit).fit = true) := by
  refine ⟨⟨⟨rfl, rfl, rfl, rfl, rfl⟩, ?_, nofun⟩, nofun, ?_, accepts_traction, nofun, by decide,
    ⟨accepts_clamp, by decide⟩, fun _ _ => accepts_sync _ _ _, by decide⟩
  · rintro (⟨start, h, h'⟩ | ⟨h, -⟩ | ⟨x, h, h'⟩)
    · cases h
    · cases h
    · cases h with
      | head => revert h'; show ¬ (8 * 1 < 0 + 8); decide
      | tail _ h => cases h
  · intro x h
    cases h with
    | head => exact ⟨by decide, rfl⟩
    | tail _ h => cases h

/-- One bit and 32 bits; a value at the low end of its range, one below it, and a slot that was VALID. -/
theorem witness_ExtractionRule :
    (let one := takes 0 1 false 49 0 1
     let wide := takes 0 32 true 49 (-2147483648) (-2147483648)
     (1 ≤ one.width ∧ one.width ≤ 32) ∧ (1 ≤ wide.width ∧ wide.width ≤ 32)
       ∧ (wide.minimum.toInt ≤ signedOf 32 (fieldNat [0, 0, 0, 0x80] 0 32)
           ∧ signedOf 32 (fieldNat [0, 0, 0, 0x80] 0 32) ≤ wide.maximum.toInt)
       ∧ ¬(wide.minimum.toInt ≤ signedOf 32 (fieldNat [1, 0, 0, 0x80] 0 32)
           ∧ signedOf 32 (fieldNat [1, 0, 0, 0x80] 0 32) ≤ wide.maximum.toInt)
       ∧ ((running [] [(49, 1)]).extract 0 [] [1]).slots[one.slot].validity = .valid) := by decide

/-- A field that ends with the data, a field beside it, and both states of the drive-inhibit set. -/
theorem witness_TractionGate :
    8 + 16 ≤ 8 * [1, 2, (3 : Byte)].length ∧ (running [] []).board.driveInhibit.isEmpty = false
      ∧ ((running [] []).withdrawReason .kneel).board.driveInhibit.isEmpty = true ∧ 0 + 8 ≤ 8 := by decide

theorem angles_sound {s : State} (h3 : s.steering.rear.a3.lastAngle = 0) (h4 : s.steering.rear.a4.lastAngle = 0)
    (hl : s.steering.limiter = none ∨ s.steering.limiter = some 4551) : s.AnglesSound where
  rear := fun r => by
    cases r
    · show ((s.steering.rear.a3.lastAngle.natAbs : Int) ≤ steerLimit)
      rw [h3]
      decide
    · show ((s.steering.rear.a4.lastAngle.natAbs : Int) ≤ steerLimit)
      rw [h4]
      decide
  front := fun x h => by
    rcases hl with hl | hl <;> rw [hl] at h <;> cases h
    decide

/-- The same arrival while Port D is BUS_OFF. -/
theorem accepts_clamp_silent :
    (next (running [(clampMatch true).entry] []) (.busOff .d)).Accepts .u (frame 0x104 [40, 10]) (clampMatch true) :=
  ⟨⟨rfl, rfl, rfl, rfl, rfl⟩, (accepts_clamp true).longEnough, nofun⟩

/-- Fields of 14 and 32 bits; the record at its bound, empty with FRONT_ANGLE, and empty without it; an arrival that is
forwarded and admitted, one that is refused, and one that is not forwarded. -/
theorem witness_FrontLimiter :
    ((14 ≤ 14 ∧ 14 ≤ 32 ∧ 2 + 14 ≤ 8 * [0, (0 : Byte)].length) ∧ (14 ≤ 32 ∧ 32 ≤ 32 ∧ 0 + 32 ≤ 8 * [0, 0, 0, (0 : Byte)].length)
        ∧ (limiting [] (some 4551)).steering.limiter = some 4551 ∧ (limiting [] none).steering.limiter = none
        ∧ (limiting [] none).readAngle slotFrontAngle = none
        ∧ (limiting [(4, 65436)] none).readAngle slotFrontAngle = some 65436)
      ∧ (limiting [] (some 4551)).AnglesSound ∧ (limiting [] none).AnglesSound ∧ (limiting [(4, 65436)] none).AnglesSound
      ∧ (∀ b, (running [(clampMatch b).entry] []).Accepts .u (frame 0x104 [40, 10]) (clampMatch b))
      ∧ (next (running [(clampMatch true).entry] []) (.busOff .d)).Accepts .u (frame 0x104 [40, 10]) (clampMatch true)
      ∧ (let s := running [(clampMatch true).entry] []
         (clampMatch true).cls ≠ .sync ∧ (clampMatch true).rewrite = .clampFront 0 16 ∧ s.neverForwarded (frame 0x104 []).id = false
           ∧ (s.ports.d.admission .ordinary [frame 0x104 [0, 0]]).isSome = true
           ∧ (next s (.busOff .d)).ports.d.admission .ordinary [frame 0x104 [0, 0]] = none) :=
  ⟨by decide, angles_sound rfl rfl (.inr rfl), angles_sound rfl rfl (.inl rfl), angles_sound rfl rfl (.inl rfl),
    accepts_clamp, accepts_clamp_silent, by decide⟩

/-- A state whose entry 0 has a class and a running watch, and feeds SPEED, a height, the position of door D2, which is
LOCKED, and a brake echo; entry 1 feeds another height. -/
def watched (cls : ArrivalClass) (source : CycleSource) : State :=
  let r := { DoorRecord.reset .locked with settled := some .closedLocked }
  let s := (withDoor (running [arrives .u 0x100 50 none false cls .noRewrite .noTrigger []]
    [(0, 4), (7, 30), (8, 30), (33, 0), (45, 250)]) r false).setEntry 0 { counter := some 3, watch := some 0 }
  { s with
    slots := s.slots.set 8 { s.slots[(8 : Fin 64)] with source := some 1 }
    path := { s.path with cycle := source } }

/-- An idle watch, and the classes with either source; the losses of an expiry, each of its three kinds, and none of a VALID
slot of another entry. -/
theorem witness_WatchExpiry :
    (running [] []).path.entries[(0 : Fin 96)].watch = none
      ∧ (∀ cls ∈ [ArrivalClass.sync, .sample, .command, .status], ∀ source ∈
          [{ sync := .followingSync, timer := none, syncPosted := false }, State.reset.path.cycle],
          (watched cls source).path.entries[(0 : Fin 96)].watch ≠ none ∧ (watched cls source).entryClass 0 = some cls)
      ∧ (watched .sync { sync := .followingSync, timer := none, syncPosted := false }).path.cycle.sync = .followingSync
      ∧ (watched .sync State.reset.path.cycle).path.cycle.sync = .freeRun
      ∧ (let s := watched .sample State.reset.path.cycle
         (lossesOf fun j => decide (s.slots[j].source = some 0 ∧ s.slots[j].validity = .valid)) =
             [.height .c1L, .position .d2, .brakeEcho .a1]
           ∧ s.slots[slotHeight .c1R].validity = .valid ∧ s.slots[slotHeight .c1R].source ≠ some 0
           ∧ (s.door .d2).state = .locked) := by decide

/-! ### Cycle marks and tables -/

/-- A state with one table in the pending set. -/
def waitingFor (s : State) (t : TableName) : State :=
  { s with tables := { s.tables with waiting := s.tables.waiting.set t true } }

/-- A part in RUN with every EMIT entry that it needs, and two marks a pitch apart. -/
def tracked : State := { running (requiredKinds.map fun k => emits k none) [(2, 50065), (3, 7), (4, 0)] with track := track }

/-- CONFIGURING, with the last missing table waiting. -/
def entering : State :=
  let s := waitingFor (running [] []) .guard
  { s with tables := { s.tables with active := { s.tables.active with guard := none }, partState := .configuring } }

/-- An idle timer, a hold, an empty pending set, a refused motion table, and tables that are applied; the same sets at SYNC
arrivals that find the source in FREE_RUN and following SYNC; a mark in RUN, one in CONFIGURING, and one that enters RUN. -/
theorem witness_CycleTimerExpiry :
    ((State.reset.setCycleTimer none).path.cycle.timer = none
        ∧ (State.reset.path.cycle.timer ≠ none ∧ State.reset.path.cycle.sync = .freeRun
            ∧ (∀ n ∈ PerTable.all, State.reset.tables.waiting.get n = false) ∧ State.reset.inRun = false)
        ∧ (waitingFor (State.reset.setHold true) .fit).tables.hold = true
        ∧ (let s := waitingFor (running [] [(0, 10)]) .axle
           s.tables.hold = false ∧ s.tables.waiting.get .axle = true ∧ TableName.axle.isMotion = true ∧ s.inRun = true
             ∧ s.stationary = false ∧ s.path.cycle.timer ≠ none ∧ s.path.cycle.sync = .freeRun)
        ∧ (let s := waitingFor (running [] [(0, 9)]) .axle
           s.tables.hold = false ∧ s.tables.waiting.get .axle = true ∧ s.inRun = true ∧ s.stationary = true)
        ∧ (let s := waitingFor (running [] [(0, 10)]) .guard
           s.tables.hold = false ∧ s.tables.waiting.get .guard = true ∧ holdsMotion s.tables.waiting = false))
      ∧ (∀ speed source waiting, (synced [(0, speed)] source waiting).Accepts .u (frame 0x100 []) syncMatch)
      ∧ (∀ n ∈ PerTable.all, (PerTable.const false : PerTable Bool).get n = false) ∧ syncMatch.cls = .sync
      ∧ (synced [(0, 10)] lostSync (only .axle)).stationary = false
      ∧ (synced [(0, 9)] following (only .axle)).stationary = true ∧ (only .axle).get .axle = true
      ∧ (lostSync.syncPosted = true ∧ lostSync.sync = .freeRun ∧ following.sync = .followingSync)
      ∧ (State.reset.storeMark.1.inRun = false ∧ (running [] []).storeMark.1.inRun = true
        ∧ (let s := entering
           s.inRun = false ∧ s.storeMark.1.inRun = true ∧ s.path.cycle.timer ≠ none ∧ s.path.cycle.sync = .freeRun)) :=
  ⟨by decide, fun _ _ _ => accepts_sync _ _ _, by decide, rfl, by decide, by decide, rfl, ⟨rfl, rfl, rfl⟩,
    by decide⟩

/-- Interlocks as they stand in a part whose kneel state is RAISING and whose doors are not fitted, but for door D2 where
a record is given. -/
theorem interlocks_raising {s : State} (h : s.board.haltSet = s.board.driveInhibit)
    (hk : s.board.haltSet.kneel = decide (s.kneel.state ≠ .ride))
    (hm : ∀ d ∈ PerDoor.all, s.board.haltSet.doors.get d = (s.door d).holds)
    (hl : s.board.haltLatch = true) (hd : ∀ d ∈ PerDoor.all, (s.door d).Sound)
    (hf : ∀ d ∈ PerDoor.all, (s.door d).state = .absent ↔ s.fitted d = false) : s.InterlocksSound where
  sameMembers := h
  kneelMember := hk
  doorMember := fun d => hm d (PerDoor.mem_all d)
  latched := fun _ => hl
  confirmed := fun _ => hl
  doors := fun d => hd d (PerDoor.mem_all d)
  fitted := fun d => hf d (PerDoor.mem_all d)

/-- A door without a flag or a timer is sound. -/
theorem plain_door_sound (x : DoorState) : (DoorRecord.reset x).Sound where
  armedLocked := nofun
  armTimer := rfl
  lockProof := nofun
  releaseHold := nofun
  absent := fun _ => rfl

/-- A stationary part in RUN with a SYNC entry, SYNC posted, door D2 OPEN at a VALID position, a VALID height and a VALID brake
echo, that waits for a FIT. -/
def refitting : State :=
  let s := waitingFor (withDoor (running [syncMatch.entry] [(0, 0), (7, 30), (33, 3), (45, 250)]) (.reset .open) true) .fit
  { s with path := { s.path with cycle := { s.path.cycle with syncPosted := true } } }

theorem refitting_interlocks : refitting.InterlocksSound :=
  interlocks_raising (by decide) (by decide) (by decide) (by decide)
    (fun d _ => match d with
      | .d1 => plain_door_sound .absent
      | .d2 => plain_door_sound .open
      | .d3 => plain_door_sound .absent
      | .d4 => plain_door_sound .absent
      | .d5 => plain_door_sound .absent)
    (by decide)

/-- A part at rest with track marks and door D2 fitted, and a set of tables waiting; staged are a CORNER table of kerb
corners, a DOOR table that fits D1 and D2 as asked, and another pitch. -/
def changing (set : PerTable Bool) (d1 d2 : Bool) : State :=
  let s := withDoor tracked (.reset .open) true
  let door := fun b => { fitted := b, edge := .rise, debounce := 1, maxReversals := 1
                         mask := ⟨true, true, true, true, true, true⟩, lockProof := 4000, releaseHold := 20000 : DoorParams }
  { s with
    slots := filled [(0, 9)]
    tables := { s.tables with
      waiting := set
      staged := { StagedTables.blank with
        corner := Vector.replicate 8 { corner with kerb := true }
        door := (StagedTables.blank.door.set 0 (door d1)).set 1 (door d2)
        constants := constants.set Param.pitch.index 40 } } }

/-- The mark of the timer in RUN and in CONFIGURING, and that of a SYNC arrival; CORNER, DOOR and CONSTANTS applied in RUN at
a standstill, with a door unfitted, one newly fitted and one still fitted, and a pitch that changes; CORNER alone. -/
theorem witness_FitApplication :
    (refitting.path.cycle.timer ≠ none ∧ refitting.path.cycle.sync = .freeRun ∧ refitting.tables.hold = false
        ∧ refitting.tables.waiting.fit = true ∧ refitting.stationary = true ∧ refitting.path.cycle.syncPosted = true
        ∧ refitting.slots[slotDoorPosition .d2].validity = .valid ∧ refitting.fitted .d2 = true
        ∧ refitting.slots[slotBrakeEcho .a1].validity = .valid
        ∧ refitting.slots[slotHeight .c1L].validity = .valid ∧ refitting.slots[slotHeight .c1R].validity ≠ .valid
        ∧ refitting.tables.waiting.corner = false
        ∧ (lossesOf fun i => decide (refitting.slots[i].validity = .valid)) = [.height .c1L, .position .d2, .brakeEcho .a1])
      ∧ refitting.InterlocksSound ∧ refitting.Accepts .u (frame 0x100 []) syncMatch
      ∧ (let s := waitingFor State.reset .fit
         s.path.cycle.timer ≠ none ∧ s.path.cycle.sync = .freeRun ∧ s.tables.hold = false ∧ s.tables.waiting.fit = true
           ∧ s.inRun = false)
      ∧ (let all : PerTable Bool := { PerTable.const true with fit := false }
         let s := changing all true false
         let t := changing all false true
         (s.tables.hold = false ∧ s.tables.waiting.get .corner = true ∧ s.tables.waiting.get .constants = true
             ∧ TableName.constants.isMotion = true ∧ s.inRun = true ∧ s.stationary = true ∧ s.tables.waiting.fit = false)
           ∧ (s.storeMark.1.fitted .d2 = false ∧ s.storeMark.1.fitted .d1 = true ∧ (s.door .d1).state = .absent)
           ∧ (t.storeMark.1.fitted .d2 = true ∧ (t.door .d2).state = .open)
           ∧ (State.reset.cornerParams .c1L).kerb = false ∧ (s.storeMark.1.cornerParams .c1L).kerb = true)
      ∧ (changing (only .constants) false true).tables.active.trackChanged
          (changing (only .constants) false true).storeMark.1.tables.active
      ∧ (let s := changing (only .corner) false true
         (s.tables.hold = false ∧ s.tables.waiting.get .corner = true
             ∧ ∀ n ∈ PerTable.all, s.tables.waiting.get n = true → n.isMotion = false)
           ∧ ¬ s.tables.active.trackChanged s.storeMark.1.tables.active) := by
  refine ⟨by decide, refitting_interlocks, ⟨⟨rfl, rfl, rfl, rfl, rfl⟩, sync_long_enough, nofun⟩, by decide, by decide,
    .inl ⟨_, _, rfl, rfl, by decide⟩, by decide, ?_⟩
  rintro (⟨x, y, h, h', c⟩ | ⟨x, y, h, h', c⟩)
  · exact c (by cases h; cases h'; rfl)
  · cases h
    cases h'
    rcases c with c | c <;> exact c rfl

/-- JOINT1 that never came, and JOINT1 that is STALE; at an expiry and at a SYNC arrival; JOINT1 present; a LOCK set admitted
and one refused. -/
theorem witness_MissingJointLocksAxles :
    ((let s := running [] []
      s.path.cycle.timer ≠ none ∧ s.path.cycle.sync = .freeRun ∧ s.inRun = true ∧ s.present (slotJoint .j1) = false)
        ∧ (let s := running [] [(5, 900)]
           let t := { s with slots := s.slots.set 5 { s.slots[(5 : Fin 64)] with validity := .stale } }
           t.path.cycle.timer ≠ none ∧ t.path.cycle.sync = .freeRun ∧ t.inRun = true ∧ t.present (slotJoint .j1) = false))
      ∧ (synced [] following (PerTable.const false)).Accepts .u (frame 0x100 []) syncMatch
      ∧ syncMatch.trigger ≠ .steer ∧ (synced [] following (PerTable.const false)).present (slotJoint .j1) = false
      ∧ (running [] [(5, 900)]).present (slotJoint .j1) = true
      ∧ (let s := running [emits (.steer .a3) none, emits (.steer .a4) none] []
         let locks := [frame 0x200 [1, 0, 0], frame 0x201 [1, 0, 0]]
         s.emitFrames [(.steer .a3, [1, 0, 0]), (.steer .a4, [1, 0, 0])] = locks
           ∧ (s.ports.d.admission .priority locks).isSome = true
           ∧ (next s (.busOff .d)).ports.d.admission .priority locks = none) :=
  ⟨by decide, accepts_sync _ _ _, nofun, by decide, by decide, by decide⟩

/-- A store in CONFIGURING that waits for a SCHEDULE. -/
theorem waiting_store_sound : (waitingFor State.reset .schedule).tables.Sound where
  sums := fun t => by cases t <;> rfl
  active := { geometry := by decide, duplicate := by decide, complete := by decide }
  prospect := { geometry := by decide, duplicate := by decide, complete := by decide }
  run := by decide

theorem witness_TablesStaySound :
    ∃ t, (waitingFor State.reset .schedule).tables.Sound
      ∧ step { waitingFor State.reset .schedule with pending := [.cycleTimerExpiry] } = .next t :=
  ⟨_, waiting_store_sound, rfl⟩

/-- A mark in CONFIGURING that applies, a GUARD table that waits in RUN while the vehicle moves, and the SYNC arrival at
which it is applied. -/
theorem witness_ActiveTablesChangeOnlyAtMarks :
    ((let s := waitingFor State.reset .schedule
      (next s .cycleTimerExpiry).tables.active ≠ s.tables.active)
        ∧ (let s := running [] [(0, 10)]
           let t := waitingFor { s with tables := { s.tables with staged := { s.tables.staged with
             guard := s.tables.staged.guard.set 0 { blankGuard with enabled := true } } } } .guard
           t.inRun = true ∧ t.stationary = false ∧ (t.tables.apply).active ≠ t.tables.active))
      ∧ (let s := synced [(0, 10)] following (only .guard)
         s.Accepts .u (frame 0x100 []) syncMatch ∧ s.stationary = false ∧ s.markVerdict = .apply) :=
  ⟨by decide, accepts_sync _ _ _, by decide, by decide⟩

theorem witness_CycleStaysSound :
    ∃ t, (running [] []).CycleSound ∧ step { running [] [] with pending := [.hold []] } = .next t :=
  ⟨_, { timer := by decide, posted := nofun, run := nofun }, rfl⟩

/-- A FIT entry with a clamp field that ends with the longest frame, an echo entry at the low end of its deadline, and
entries of the other tables at bounds of their ranges. -/
theorem witness_ImagesReadBack :
    FitEntry.Legal 0 (arrives .u 0x104 2550 (some 508) true .command (.clampFront 480 32) .kneel [takes 480 32 true 63 0 1])
      ∧ FitEntry.Legal 7 (emits (.brake .a4) (some { slot := 48, tolerance := 1000, deadline := 10 }))
      ∧ Schedule.Legal 7 (Vector.replicate 9 2000) ∧ AxleParams.Legal 2 axles[(2 : Fin 4)] ∧ CornerParams.Legal 1 corner
      ∧ DoorParams.Legal { blankDoor with lockProof := 15000, releaseHold := 60000 }
      ∧ (paramRanges[(31 : Fin 32)].1 ≤ 1500 ∧ 1500 ≤ paramRanges[(31 : Fin 32)].2) := by
  refine ⟨⟨by decide, by decide, by decide, ?_, ⟨by decide, ⟨rfl, by decide, by decide, by decide⟩, by decide, ?_⟩, nofun⟩,
    ⟨by decide, by decide, nofun, nofun, ?_, fun _ => by decide⟩, ?_, ?_, ?_, ?_, by decide⟩
  · intro start h
    cases h
    decide
  · intro x h
    cases h with
    | head => exact ⟨by decide, by decide, by decide⟩
    | tail _ h => cases h
  · intro e h
    cases h
    decide
  · intro j
    revert j
    decide
  · unfold AxleParams.Legal
    decide
  · unfold CornerParams.Legal
    decide
  · unfold DoorParams.Legal
    decide

/-- Images that are read: of a FIT entry, of a CORNER entry whose bounds stand in the wrong order, and of a DOOR entry. -/
theorem witness_WrittenEntriesAreLegal :
    (fitOf 0 (fitBytes (some heightEntry))) = some (some heightEntry, 0)
      ∧ (cornerOf 0 (cornerBytes { corner with min := 60, max := -90 })).isSome = true
      ∧ (doorOf (doorBytes { blankDoor with debounce := 0 })).isSome = true := by decide

/-! ### Interlock board -/

theorem witness_PostsAndWithdrawals :
    (let s := (running [] []).withdrawReason .kneel
     s.board.haltSet.isEmpty = true ∧ (running [] []).board.haltSet.has .kneel = true) := by decide

/-- A demand at HALT_RELEASE_DEMAND, and one below it. -/
theorem witness_TractionNotice :
    (let s := fun v => (running [] [(24, v)]).withdrawReason .kneel
     (s 50).board.haltLatch = true ∧ (s 50).board.haltSet.isEmpty = true ∧ (s 50).readInt slotTractionDemand = some 50
       ∧ (s 50).param .haltReleaseDemand ≤ 50 ∧ (∀ r ∈ (s 50).guardRules, r.enabled = false)
       ∧ (s 49).readInt slotTractionDemand = some 49 ∧ ¬((s 49).param .haltReleaseDemand ≤ 49)) := by decide

/-- A slot that never came, one above its range, and one at the top of it. -/
theorem witness_GuardRules :
    (let r : GuardRule := { blankGuard with slot := 0 }
     (running [] []).readInt r.slot = none ∧ (running [] [(0, 1501)]).readInt r.slot = none
       ∧ (running [] [(0, 1500)]).readInt r.slot = some 1500) := by decide

/-- Two limits held; a mark that leaves the part CONFIGURING, and one that leaves it in RUN. -/
theorem witness_RequestedLimit :
    (let s := ((running [] []).postLimit .sync).postLimit .kneelFault
     s.board.limits.get .sync = some 400 ∧ s.requestedLimit = some 100
       ∧ ∀ k ∈ PerKind.all, (s.board.limits.get k).getD 0 ≤ 1500)
      ∧ (State.reset.path.cycle.timer ≠ none ∧ State.reset.path.cycle.sync = .freeRun
        ∧ (State.reset.cycleMark false).inRun = false)
      ∧ (tracked.path.cycle.timer ≠ none ∧ tracked.path.cycle.sync = .freeRun)
      ∧ (tracked.cycleMark false).inRun = true := by
  refine ⟨by decide, by decide, by decide, ?_⟩
  have same := State.takeAll_changes (take := fun a s => State.markAction s a)
    (es := markActions ⟨PerTable.const false, false⟩ false) tracked
    (bs := [.ports, .path, .board, .steering, .joints, .brakes, .levels, .kneel, .echoes, .orderCount]) (by decide)
    fun a _ s => (s.markAction_changes a).mono (by decide)
  exact (State.inRun_congr (same.get .tables (by decide))).trans rfl

theorem witness_InterlocksStaySound :
    ∃ t, refitting.InterlocksSound ∧ step { refitting with pending := [.doorArmTimerExpiry .d2] } = .next t :=
  ⟨_, refitting_interlocks, rfl⟩

/-- A part in RUN that has posted nothing. -/
theorem running_limits : (running [] []).LimitsSound where
  steer := fun r => by cases r <;> decide
  joint := fun j => by cases j <;> decide
  levelHigh := by decide
  levelSlow := by decide
  kneelFault := by decide
  sync := by decide
  values := fun k v h => by cases k <;> cases h

theorem witness_LimitsStaySound :
    ∃ t, (running [] []).LimitsSound ∧ step { running [] [] with pending := [.watchExpiry 0] } = .next t :=
  ⟨_, running_limits, rfl⟩

/-! ### Steering, joints, brakes -/

/-- A speed at a point and one just before the next; SPEED missing, below and above the schedules. -/
theorem witness_ScheduleReading :
    (0 < 100 ∧ 99 < 100) ∧ (running [] []).speed = none ∧ (running [] [(0, 0)]).speed = some 0
      ∧ (running [] [(0, 1500)]).speed = some 1500 := by decide

/-- ODOMETER: motion back by 3 and by 2 cm and none; an empty queue; short of the next mark by 1 cm; 8 and 9 marks due; no
heading; no odometer. STEER: an axle in CENTRE whose rate brings it from 900 to 860, with the limit at 4,000; one whose limit
is escaped; inputs missing; a LOCKED axle at a standstill and in motion; and one covered, its place between two marks. -/
theorem witness_SteerCommands :
    (let x : Cm := 50065
     let at' := fun (last : Cm) (next : Cm) => ({ track with lastOdo := some last, nextPos := next } : Track)
     let s := fun t => { running [] [(2, 50065), (3, 7), (4, 0)] with track := t }
     (s track).readSlot slotOdometer = some x ∧ (running [] []).readSlot slotOdometer = none
       ∧ posDiff x 50068 = -3 ∧ posDiff x 50067 = -2 ∧ posDiff x 50065 = 0 ∧ 0 < posDiff x 50000
       ∧ (s Track.reset).track.lastOdo = none ∧ (s Track.reset).track.marks = []
       ∧ (at' 50000 50066).marks ≠ [] ∧ posDiff x (at' 50000 50066).nextPos = -1
       ∧ (posDiff x (at' 50000 49906).nextPos).toNat / (s track).pitch + 1 = 8
       ∧ (posDiff x (at' 50000 49905).nextPos).toNat / (s track).pitch + 1 = 9
       ∧ (s track).pathHeading = some 7 ∧ (running [] [(2, 50065), (3, 7)]).pathHeading = none)
      ∧ ((withSchedule (running [] [(0, 0)]) .limA3 (Vector.replicate 9 4000)).setRear .a3
          { mode := .centre, lastAngle := 900 }).rearCommand .a3 .centre = (.angle 860, false)
      ∧ ((withSchedule (running [] [(0, 0)]) .limA3 (Vector.replicate 9 859)).setRear .a3
          { mode := .centre, lastAngle := 900 }).rearCommand .a3 .centre = (.lock, true)
      ∧ (running [] []).readSlot slotHeading1 = none
      ∧ (let s := fun v => { running [] [(0, v), (1, 1), (2, 50030), (3, 7), (4, 0), (5, 0), (6, 0)] with
           track := { marks := [⟨48980, 0⟩, ⟨49000, 0⟩, ⟨49020, 0⟩], lastOdo := some 50030, nextPos := 50040 } }
         ((s 9).setRear .a3 { mode := .locked, lastAngle := 0 }).modeStep .a3 = .centre
           ∧ ((s 10).setRear .a3 { mode := .locked, lastAngle := 0 }).modeStep .a3 = .locked
           ∧ (s 10).covered .a3 = true ∧ (s 10).covered .a4 = false ∧ (s 10).notReverse = true
           ∧ (s 10).modeStep .a3 = .follow ∧ (s 10).modeStep .a4 = .centre
           ∧ (posDiff ((50030 : Cm) - BitVec.ofNat 32 ((s 10).axleParams .a3).path) 48980).toNat / (s 10).pitch = 0) := by
  decide

theorem witness_AnglesStaySound :
    ∃ t, (limiting [] (some 4551)).AnglesSound ∧ step { limiting [] (some 4551) with pending := [.hold []] } = .next t :=
  ⟨_, angles_sound rfl rfl (.inr rfl), rfl⟩

theorem tracked_sound : tracked.trackSound where
  left :=
    { fits := by decide
      spaced := fun i a b ha hb => by
        match i with
        | 0 =>
          cases ha
          cases hb
          decide
        | n + 1 => cases hb
      due := fun m h => by
        cases h
        decide }
  right := nofun

theorem tracked_store_sound : tracked.tables.Sound where
  sums := fun t => by cases t <;> rfl
  active := { geometry := by decide, duplicate := by decide, complete := by decide }
  prospect := { geometry := by decide, duplicate := by decide, complete := by decide }
  run := by decide

theorem witness_TrackStaysSound :
    ∃ t, tracked.trackSound ∧ tracked.tables.Sound ∧ step { tracked with pending := [.cycleTimerExpiry] } = .next t :=
  ⟨_, tracked_sound, tracked_store_sound, rfl⟩

/-- A joint INSIDE at its envelope, one in BREACH at its envelope less the hysteresis, and one whose slot is missing. -/
theorem witness_JointJudgement :
    (let s := running [] [(5, -200)]
     s.readAngle (slotJoint .j1) = some (BitVec.ofInt 16 (-200)) ∧ (s.joints.records.get .j1).envelope = .inside
       ∧ s.readAngle (slotJoint .j2) = none)
      ∧ (let s := running [] [(5, 0)]
         let t := { s with joints := { s.joints with records := s.joints.records.set .j1 ⟨.breach, .full⟩ } }
         t.readAngle (slotJoint .j1) = some 0 ∧ (t.joints.records.get .j1).envelope = .breach) := by decide

/-- BRAKE_DEMAND made STALE. -/
def watchedDemand : State :=
  let s := running [] [(23, 400)]
  { s with slots := s.slots.set slotBrakeDemand { s.slots[slotBrakeDemand] with validity := .stale } }

/-- Halt active; a snapshot; both pressures of an axle; one of them missing; the demand at both ends of its range, beyond
them, NEVER and STALE. -/
theorem witness_BrakePressures :
    (running [] []).haltActive = true ∧ (running [] []).brakes.snapshot = none
      ∧ ((running [] []).requestSnapshot).brakes.snapshot = some ⟨⟨700, 900, 800, 750⟩, true⟩
      ∧ (running [] pressures).readInt (slotPressure (leftCorner .a2)) = some 420
      ∧ (running [] pressures).readInt (slotPressure (rightCorner .a2)) = some 410
      ∧ (running [] pressures).readInt (slotPressure (rightCorner .a4)) = none
      ∧ (let slot := fun v => (running [] [(23, v)]).slots[slotBrakeDemand]
         (∀ v ∈ [0, 1000, 1001, -1], (slot v).validity = .valid)
           ∧ [0, 1000, 1001, -1].map (fun v => (slot v).value.toInt) = [0, 1000, 1001, -1])
      ∧ (running [] []).slots[slotBrakeDemand].validity = .never
      ∧ (watchedDemand).slots[slotBrakeDemand].validity = .stale := by decide

/-- One axle in DISAGREE, and none. -/
theorem witness_HaltConfirmed :
    (let s := running [emits (.brake .a3) (some { slot := 47, tolerance := 10, deadline := 80 })] []
     (s.setEcho (.brake .a3) { EchoRecord.reset with state := .disagree }).disagrees (.brake .a3) = true
       ∧ ∀ a ∈ PerAxle.all, s.disagrees (.brake a) = false) := by decide

/-! ### Levelling, kneeling, doors -/

/-- Errors at both bands and one beyond each, with rapid allowed and not; both sides of DRIVE_MODE_SPEED; levelling suspended
at the demand and not below it; and corners of an axle and of another. -/
theorem witness_CornerCommands :
    corner.tb ≤ corner.db ∧ (3 : Int).natAbs ≤ corner.tb ∧ (corner.tb < (-4 : Int).natAbs ∧ (-4 : Int).natAbs ≤ corner.db)
      ∧ (corner.tb < (20 : Int).natAbs ∧ (20 : Int).natAbs ≤ corner.db) ∧ corner.db < (-21 : Int).natAbs
      ∧ corner.db < (21 : Int).natAbs ∧ (-21 : Int) < 0 ∧ (0 : Int) < 21
      ∧ (let v := (running [] []).param .driveModeSpeed
         (running [] [(0, v - 1)]).driveMode = false ∧ (running [] [(0, v)]).driveMode = true)
      ∧ (let d := (running [] []).param .levelSuspendDecel
         (running [] [(23, d)]).suspendedNow = true ∧ (running [] [(23, d - 1)]).suspendedNow = false)
      ∧ cornerAxle (leftCorner .a3) = .a3 ∧ cornerAxle (rightCorner .a3) = .a3 ∧ cornerAxle .c2R ≠ .a3 := by decide

/-- An idle timer and a running one; RUN and CONFIGURING; both ride levels; the return speed and one below it; the three
readings of LEVEL_REQUEST. -/
theorem witness_ActiveSinceExpiry :
    ((running [] []).levels.corners.get .c4R).activeSince = none
      ∧ (((running [] []).setCorner .c4R { CornerRecord.reset with mode := .rapid, activeSince := some 0 }).levels.corners.get
          .c4R).activeSince ≠ none
      ∧ (running [] []).inRun = true ∧ State.reset.inRun = false
      ∧ (running [] []).levels.ride = .normal ∧ ((running [] []).rideHigh).levels.ride = .high
      ∧ (let v := (running [] []).param .highLevelReturn
         (running [] [(0, v)]).speedAtLeast v = true ∧ (running [] [(0, v - 1)]).speedAtLeast v = false)
      ∧ (running [] []).readInt slotLevelRequest = none ∧ (running [] [(26, 0)]).readInt slotLevelRequest = some 0
      ∧ (running [] [(26, 1)]).readInt slotLevelRequest = some 1 := by decide

/-- A corner that corrects with its timer running, the others as after a reset. -/
theorem levels_sound :
    ((running [] []).setCorner .c1R
      { CornerRecord.reset with ring := [-60], mode := .rapid, activeSince := some 5 }).levelsSound := by
  intro c
  cases c <;>
    exact { ring := by decide, judged := by decide, timed := by decide, exclusive := by decide }

theorem witness_LevelsStaySound :
    ∃ t, ((running [] []).setCorner .c1R
        { CornerRecord.reset with ring := [-60], mode := .rapid, activeSince := some 5 }).levelsSound
      ∧ step { (running [] []).setCorner .c1R
          { CornerRecord.reset with ring := [-60], mode := .rapid, activeSince := some 5 } with
          pending := [.activeSinceExpiry .c1R] } = .next t :=
  ⟨_, levels_sound, rfl⟩

/-- Idle timers; every kneel state, with both timers running; a kerb corner and another; a snapshot and none; and the
readings of KNEEL_SWITCH. -/
theorem witness_KneelTimers :
    (let s := fun (x : KneelState) => (running [] []).setKneel fun k =>
       { k with state := x, armTimer := some 0, deadline := some 0 }
     (State.reset.kneel.armTimer = none ∧ State.reset.kneel.deadline = none)
       ∧ ((s .arming).kneel.armTimer ≠ none ∧ (s .arming).kneel.state = .arming)
       ∧ ((s .raising).kneel.deadline ≠ none ∧ (s .raising).kneel.state = .raising)
       ∧ ((s .lowering).kneel.deadline ≠ none ∧ (s .lowering).kneel.state = .lowering)
       ∧ [(s .ride).kneel.state, (s .knelt).kneel.state, (s .paused).kneel.state] = [.ride, .knelt, .paused]
       ∧ ((s .lowering).cornerParams .c1R).kerb = false
       ∧ (s .arming).brakes.snapshot = none ∧ ((s .arming).requestSnapshot).brakes.snapshot ≠ none)
      ∧ (let s := running [] []
         let t := { s with tables := { s.tables with active := { s.tables.active with
           corner := some ((Vector.replicate 8 corner).set 1 { corner with kerb := true }) } } }
         (t.cornerParams .c1R).kerb = true)
      ∧ [(running [] [(25, 0)]).readInt slotKneelSwitch, (running [] [(25, 1)]).readInt slotKneelSwitch,
          (running [] [(25, 2)]).readInt slotKneelSwitch] = [some 0, some 1, some 2] := by decide

/-- A part that lowers, with its deadline running and its snapshot taken. -/
def lowering : State :=
  ((running [] []).setKneel fun k => { k with state := .lowering, deadline := some 0 }).requestSnapshot

theorem witness_KneelStaysSound :
    ∃ t, lowering.KneelSound ∧ step { lowering with pending := [.kneelDeadlineExpiry] } = .next t :=
  ⟨_, { armTimer := by decide, deadline := by decide, configuring := by decide, snapshotRide := by decide
        snapshotLow := by decide }, rfl⟩

/-- A door record of each timed kind is sound; no request, RELEASE and CLOSE at a LOCKED door, CLOSE and OPEN that move a
door, one that moves none, and an ABSENT door. -/
theorem witness_DoorTimers :
    (∀ x, ((withDoor (running [] []) (.reset x) true).door .d2).Sound
        ∧ ((withDoor (running [] []) (.reset x) true).door .d2).armTimer = none
        ∧ ((withDoor (running [] []) (.reset x) true).door .d2).lockProof = none
        ∧ ((withDoor (running [] []) (.reset x) true).door .d2).releaseHold = none)
      ∧ (let r := { DoorRecord.reset .locked with armed := true, armTimer := some 0 }
         ((withDoor (running [] []) r true).door .d2).Sound ∧ ((withDoor (running [] []) r true).door .d2).armTimer ≠ none)
      ∧ (let r := { DoorRecord.reset .closing with lockProof := some 0 }
         ((withDoor (running [] []) r true).door .d2).Sound ∧ ((withDoor (running [] []) r true).door .d2).lockProof ≠ none)
      ∧ (let r := { DoorRecord.reset .released with releaseHold := some 0 }
         ((withDoor (running [] []) r true).door .d2).Sound
           ∧ ((withDoor (running [] []) r true).door .d2).releaseHold ≠ none)
      ∧ (let asked := fun (x : DoorState) (v : Int) => withDoor (running [] [(28, v)]) (.reset x) true
         [0, 1, 2, 3].map (fun v => (asked .locked v).readInt (slotDoorRequest .d2)) = [some 0, some 1, some 2, some 3]
           ∧ (running [] []).readInt (slotDoorRequest .d2) = none
           ∧ requestStep .unproven .close false = some .closing ∧ requestStep .closing .open true = some .opening
           ∧ requestStep .closing .open false = none ∧ (running [] []).doors.records.d2.state = .absent) :=
  ⟨fun x => ⟨plain_door_sound x, rfl, rfl, rfl⟩,
    ⟨{ armedLocked := fun _ => rfl, armTimer := rfl, lockProof := nofun, releaseHold := nofun, absent := nofun }, nofun⟩,
    ⟨{ armedLocked := nofun, armTimer := rfl, lockProof := fun _ => rfl, releaseHold := nofun, absent := nofun }, nofun⟩,
    ⟨{ armedLocked := nofun, armTimer := rfl, lockProof := nofun, releaseHold := fun _ => rfl, absent := nofun }, nofun⟩,
    by decide⟩

/-- A part that stands still at a stop with halt confirmed, door D2 as given, and these slots. -/
def stopped (r : DoorRecord) (slots : List (SlotId × Int)) : State :=
  let s := withDoor (running [emits (.door .d2) none] ([(0, 0), (1, 1)] ++ slots)) r true
  { s with kneel := { s.kneel with state := .ride }, board := { s.board with haltConfirmed := true } }

/-- A sound door record without a flag or timer in every state but ABSENT, at the first and the last position; an ABSENT
door and a lost position. An armed door released at its position, a door that meets an obstruction, and a released door
asked to open; and an arrival that brings UNLOCK into the queue. -/
theorem witness_DoorCommandsGated :
    (∀ x, ((withDoor (running [] [(33, 0)]) (.reset x) true).door .d2).Sound)
      ∧ ((running [] [(33, 0)]).readInt (slotDoorPosition .d2) = some 0
          ∧ (running [] [(33, 4)]).readInt (slotDoorPosition .d2) = some 4
          ∧ (running [] []).readInt (slotDoorPosition .d2) = none ∧ ((running [] []).door .d2).state = .absent)
      ∧ (let s := stopped { DoorRecord.reset .locked with armed := true, settled := some .closedLocked } [(33, 0)]
         ((s.doorTrigger .d2).door .d2).lastCommand = some .unlock ∧ (s.door .d2).lastCommand ≠ some .unlock)
      ∧ (let s := withDoor (running [emits (.door .d2) none] [(33, 2), (38, 1)])
           { DoorRecord.reset .closing with lastEdge := some false } true
         ((s.doorTrigger .d2).door .d2).lastCommand = some .open ∧ (s.door .d2).lastCommand ≠ some .open)
      ∧ (let s := stopped (.reset .released) [(28, 2)]
         ((s.doorRequest .d2).door .d2).lastCommand = some .open ∧ (s.door .d2).lastCommand ≠ some .open)
      ∧ (let entry := arrives .d 0x10B 0 none false .status .noRewrite (.door .d2) [takes 0 8 false 33 0 4]
         let r := { DoorRecord.reset .locked with armed := true, settled := some .closedLocked }
         let s := withDoor (running [emits (.door .d2) none, entry] [(0, 0), (1, 1)]) r true
         let t : State := { s with kneel := { s.kneel with state := .ride }, board := { s.board with haltConfirmed := true } }
         (next t (.frameArrival .d (frame 0x10B [0]))).ports.d.priority.map Frame.data = [byte (doorCommandCode .unlock)]
           ∧ t.ports.d.priority = []) :=
  ⟨plain_door_sound, by decide, by decide, by decide, by decide, by decide⟩

/-- A closing door whose position settles at CLOSED_LOCKED at an arrival, having been settled elsewhere; and a step with every
ABSENT door unsettled. -/
theorem witness_LockedOnlyBySettling :
    (let entry := arrives .d 0x10B 0 none false .status .noRewrite (.door .d2) [takes 0 8 false 33 0 4]
     let s := withDoor (running [emits (.door .d2) none, entry] []) { DoorRecord.reset .closing with settled := some .closedUnlocked } true
     let t := next s (.frameArrival .d (frame 0x10B [0]))
     (s.door .d2).state ≠ .locked ∧ (t.door .d2).state = .locked
       ∧ ((s.door .d2).state = .absent → (s.door .d2).settled = none))
      ∧ ∃ s t : State, s.absentUnsettled ∧ step s = .next t :=
  ⟨by decide, { State.reset with pending := [.busOff .d] }, _, fun d _ => by cases d <;> rfl, rfl⟩

/-! ### Echoes -/

/-- A record whose third mismatch is due, and one whose timer is idle; a kind without an echo, a record without a value, an
echo within the tolerance and one beyond it; a steer set that is admitted and one that is refused. -/
theorem witness_EchoTimerExpiry :
    (let s := fun slots => running [emits (.brake .a2) (some { slot := 46, tolerance := 10, deadline := 80 })] slots
     let t := (s []).setEcho (.brake .a2) { EchoRecord.reset with newest := some 250, mismatch := 2, timer := some 0 }
     ((s []).echoes.records.get (.brake .a2)).timer = none ∧ (t.echoes.records.get (.brake .a2)).timer ≠ none
       ∧ t.echoSpec (.brake .a2) = some { slot := 46, tolerance := 10, deadline := 80 }
       ∧ t.echoSpec (.steer .a3) = none ∧ ((s []).echoes.records.get (.brake .a2)).newest = none
       ∧ ((s [(46, 260)]).readSlot 46 = some 260 ∧ (260 - 250 : Int).natAbs ≤ 10 ∧ ¬((261 - 250 : Int).natAbs ≤ 10)))
      ∧ (let set := [frame 0x200 [0, 1, 0], frame 0x201 [1, 0, 0]]
         ((running [] []).ports.d.admission .priority set).isSome = true
           ∧ (next (running [] []) (.busOff .d)).ports.d.admission .priority set = none) := by decide

/-- A record at both bounds of its counts. -/
theorem echoes_sound :
    ((running [] []).setEcho (.steer .a4) { newest := some 7, previous := none, mismatch := 3, agreement := 10
                                            state := .disagree, timer := some 0 }).echoesSound := by
  intro k
  rcases k with (_ | _) | (_ | _ | _ | _) <;>
    exact { mismatch := by decide, agreement := by decide, agrees := by decide, pair := by decide }

theorem witness_EchoesStaySound :
    ∃ s t : State, s.echoesSound ∧ step s = .next t :=
  ⟨(running [] []).setEcho (.steer .a4) { newest := some 7, previous := none, mismatch := 3, agreement := 10
                                          state := .disagree, timer := some 0 }, _, echoes_sound, rfl⟩

/-! ### Management requests -/

/-- Port U with a full ordinary queue. -/
def crowded : State :=
  let full := (List.range 32).map fun i => frame (0x300 + i) []
  { State.reset with ports := { State.reset.ports with
      u := { link := .active, priority := [], ordinary := full, offer := .onOffer .ordinary (frame 0x300 []) false } } }

/-- Port U BUS_OFF; ACTIVE with a full queue, and a RESET_GO that is not armed there and one that is. -/
theorem witness_RequestsWhileBusOff :
    (requestData (.resetGo [7]) = some [12, 7] ∧ requestData (.badRequest []) = some []
        ∧ (silentU (running [] [])).ports.u.link = .busOff)
      ∧ (let s := crowded
         32 ≤ s.ports.u.ordinary.length ∧ (∀ f ∈ s.ports.u.ordinary, f.id ≠ .ext (responseId s.node))
           ∧ s.agent.resetArm = none ∧ s.ports.u.link = .active)
      ∧ (let s := { crowded with agent := { crowded.agent with resetArm := some 1 } }
         s.agent.resetArm ≠ none ∧ s.inRun = false ∧ s.ports.u.link = .active) := by decide

/-- The four leaves, the first number that names none, and the longest response that is given. -/
theorem witness_IdentAndBadRequest :
    (∀ data ∈ [[1, 7, 0, 96, 64, 0, 1, 16, 8, 32], [1, 7, 0, 3, 0x17, 0x0D], [1, 7, 0, 0x24, 0x05, 0x10],
        [1, 7, 0, 4, 8, 5, 2], [1, 7, 2], [0, 0, 2]], ∃ q, State.reset.Answers data q)
      ∧ 3 < (4 : Byte).toNat ∧ [(7 : Byte)].length ≤ 1 :=
  ⟨answers_each (by decide), by decide⟩

/-- The report and the refusal; the first option byte with a set unused bit, and a frame without one. -/
theorem witness_StatusRequest :
    (∀ data ∈ [[2, 7, 0]
        ++ byte (State.reset.inRun.toNat + 2 * (decide (State.reset.path.cycle.sync = .followingSync)).toNat
          + 4 * State.reset.tables.hold.toNat)
        ++ byte (tableMask State.reset.tables.waiting) ++ byte (tableMask State.reset.tables.outcome.tables)
        ++ byte (resultCode State.reset.tables.outcome.result) ++ epochBytes State.reset.tables.outcome.epochs
        ++ (State.reset.faultBits.flatMap fun bs => half (bitsNat bs))
        ++ byte State.reset.board.haltSet.bits ++ byte State.reset.board.driveInhibit.bits, [2, 7, 2], [2, 0, 2]], ∃ q, State.reset.Answers data q)
      ∧ 2 ≤ (2 : Byte).toNat ∧ [(7 : Byte)].length ≤ 1 ∧ ([] : List Byte).length ≤ 1 :=
  ⟨answers_each (by decide), by decide⟩

/-- Address bytes that name CONSTANTS staged and active, that continue, and that name no mode, no table and bit 7; the last
parameter and the first position beyond it; counts at the bounds of CONSTANTS; the ABSENT active copy and a present one; and
the responses. -/
theorem witness_ReadRequest :
    (tableOf ((6 : Byte).toNat % 8) = some .constants ∧ modeOf ((6 : Byte).toNat / 16 % 4) = some .table
        ∧ modeOf ((0x16 : Byte).toNat / 16 % 4) = some .group ∧ modeOf ((0x26 : Byte).toNat / 16 % 4) = some .fixed
        ∧ bit (0x46 : Byte).toNat 6 = true ∧ bit (6 : Byte).toNat 6 = false ∧ bit (8 : Byte).toNat 3 = true
        ∧ bit (6 : Byte).toNat 3 = false ∧ bit (6 : Byte).toNat 7 = false ∧ bit (0x80 : Byte).toNat 7 = true
        ∧ (0x36 : Byte).toNat / 16 % 4 = 3 ∧ (7 : Byte).toNat % 8 = 7
        ∧ State.reset.agent.cursor = { table := .fit, index := 0, mode := .table }
        ∧ (31 : Byte).toNat < tableSize .constants ∧ tableSize .constants ≤ (32 : Byte).toNat
        ∧ (14 : Byte).toNat ≤ 59 / imageSize .constants ∧ 59 / imageSize .constants < (15 : Byte).toNat
        ∧ activeImage State.reset.tables.active .constants 31 = none
        ∧ (activeImage (running [] []).tables.active .constants 31).isSome = true ∧ [7, 6, (0 : Byte)].length ≤ 3)
      ∧ ∀ data ∈ [[3, 7, 0] ++ byte 31 ++ byte 1 ++ stagedImage State.reset.tables.staged .constants 31, [3, 7, 2], [3, 7, 3],
          [3, 7, 4]], ∃ q, State.reset.Answers data q :=
  ⟨by decide, answers_each (by decide)⟩

/-- A table of the pending set, an image with an illegal gate, and a legal image; two images in turn across the end of the
table, and one under CONTINUE; the bits, counts and lengths that are refused, and the responses. -/
theorem witness_WriteAndSwap :
    (let image := guardBytes { blankGuard with gate := .levelHigh, constant := 7 }
     let staged := State.reset.tables.staged
     (tableOf (5 : Fin 7) = some .guard ∧ modeOf ((5 : Byte).toNat / 16 % 4) = some .table
         ∧ (15 : Byte).toNat < tableSize .guard ∧ tableSize .guard ≤ (16 : Byte).toNat ∧ image.length = imageSize .guard
         ∧ [image, image].length = (2 : Byte).toNat ∧ (7 : Byte).toNat ≤ 59 / imageSize .guard
         ∧ 59 / imageSize .guard < (8 : Byte).toNat
         ∧ (waitingFor State.reset .guard).tables.waiting.get .guard = true ∧ State.reset.tables.waiting.get .guard = false
         ∧ writeImage State.reset.node staged .guard 15 [0, 5, 0, 0, 0, 0, 0, 0] = none
         ∧ (writeImage State.reset.node staged .guard 15 image).isSome = true
         ∧ entryCheck staged .guard 15 = (128 : Byte).toNat + 256 * (0 : Byte).toNat
         ∧ bit (8 : Byte).toNat 3 = true ∧ bit (0x40 : Byte).toNat 6 = true ∧ bit (0x80 : Byte).toNat 7 = true
         ∧ [0, 0, (0 : Byte)].length < 4 * (1 : Byte).toNat ∧ (List.replicate 8 (0 : Byte)).length ≤ 8
         ∧ (([7, 7] ++ List.replicate 7 (0 : Byte))[1]?).getD 0 = 7)
       ∧ (∀ data ∈ [[4, 7, 6], [5, 7, 6]], ∃ q, (waitingFor State.reset .guard).Answers data q)
       ∧ (∀ data ∈ [[4, 7, 2], [4, 7, 3], [4, 7, 4], [4, 7, 5], [5, 7, 2], [5, 7, 3], [5, 7, 4], [5, 7, 5],
           [5, 7, 11] ++ half 128 ++ stagedImage staged .guard 15], ∃ q, State.reset.Answers data q)
       ∧ ∃ st coerced, writeImage State.reset.node staged .guard 15 image = some (st, coerced)
           ∧ ∀ data ∈ [[4, 7, 0] ++ byte 15 ++ byte 1 ++ byte coerced ++ half (entrySum st .guard).toNat,
               [5, 7, 0] ++ byte coerced ++ half (entrySum st .guard).toNat], ∃ q, State.reset.Answers data q) :=
  ⟨by decide, answers_each (by decide), answers_each (by decide), _, _, rfl, answers_each (by decide)⟩

theorem answers_reset (s : State) (ports : s.ports = State.reset.ports) (node : s.node = State.reset.node) :
    ([[6, 7, 2], [6, 7, 3], [6, 7, 8], [6, 7, 9], [9, 7, 2]].all fun data =>
      (s.ports.u.admission .ordinary [{ id := .ext (responseId s.node), data := padFd data }]).isSome) = true := by
  rw [ports, node]
  decide

/-- A staged FIT with these entries, its sum 9. -/
def staging (fit : List FitEntry) : State :=
  { State.reset with tables := { TableStore.reset with
      staged := { StagedTables.blank with fit := Vector.ofFn fun i => fit[i.val]? }
      sums := TableStore.reset.sums.set .fit 9 } }

/-- A SCHEDULE that is accepted, an AXLE table whose paths are no track geometry, a wrong sum, a pending table, and the
masks on both sides of bit 7; a FIT with one kind twice and one without any; short frames and codes that name no table. -/
theorem witness_CommitControl :
    (let s := State.reset
     let sum := fun n => (s.tables.sums.get n).toNat
     (tableOf (1 : Fin 7) = some .schedule ∧ (waitingFor s .schedule).tables.waiting.get .schedule = true
         ∧ s.tables.waiting.get .schedule = false ∧ (0 : Byte).toNat + 256 * (0 : Byte).toNat ≠ sum .axle
         ∧ sum .schedule = (9 : Byte).toNat + 256 * (0 : Byte).toNat
         ∧ tableOf (2 : Fin 7) = some .axle ∧ sum .axle = (8 : Byte).toNat + 256 * (0 : Byte).toNat
         ∧ geometryHolds (copyTables s.tables.staged s.tables.active (s.tables.waiting.set .axle true)) = false
         ∧ (127 : Byte).toNat < 128 ∧ 128 ≤ (128 : Byte).toNat
         ∧ bit (127 : Byte).toNat (6 : Fin 7) = true ∧ bit (0 : Byte).toNat (6 : Fin 7) = false)
       ∧ (∀ data ∈ [[6, 7, 6]], ∃ q, (waitingFor s .schedule).Answers data q)
       ∧ ∀ data ∈ [[6, 7, 7] ++ half (sum .axle), [6, 7, 1] ++ byte (tableMask (s.tables.waiting.set .schedule true)),
           [6, 7, 10], [7, 7, 0], [8, 7, 0], [9, 7, 0], [9, 7, 3]], ∃ q, s.Answers data q)
      ∧ (∀ fit ∈ [[], [emits .chassisState none, emits .chassisState none]],
          let s := staging fit
          tableOf (0 : Fin 7) = some .fit ∧ s.tables.waiting.get .fit = false
            ∧ (9 : Byte).toNat + 256 * (0 : Byte).toNat = (s.tables.sums.get .fit).toNat
            ∧ (let next := copyTables s.tables.staged s.tables.active (s.tables.waiting.set .fit true)
              noDuplicate (next.fit.getD []) = fit.isEmpty ∧ complete next = false))
      ∧ (∀ fit, ∀ data ∈ [[6, 7, 2], [6, 7, 3], [6, 7, 8], [6, 7, 9], [9, 7, 2]], ∃ q, (staging fit).Answers data q)
      ∧ (([7, 1, 0] : List Byte).length ≤ 3 ∧ (7 : Byte).toNat = 7 ∧ 8 ≤ (8 : Byte).toNat ∧ ([7] : List Byte).length ≤ 1) :=
  ⟨⟨by decide, answers_each (by decide), answers_each (by decide)⟩, by decide,
    fun fit => answers_each (s := staging fit) (answers_reset (staging fit) rfl rfl), by decide⟩

/-- Door D2 fitted and in the mask, with the clear option and without it; a frame that ends before the option. -/
theorem witness_EventsRequest :
    (let s := withDoor (running [] []) (.reset .closing) true
     bit (2 : Byte).toNat (doorIndex .d2).val = true ∧ s.fitted .d2 = true ∧ bit (1 : Byte).toNat 0 = true
       ∧ bit (0 : Byte).toNat 0 = false
       ∧ (∀ data ∈ [[10, 7, 0, 2, 0, 0, 0, 0, 5, 255, 0, 0, 0, 0, 0, 0, 0, 0, 0], [10, 7, 2]], ∃ q, s.Answers data q)
       ∧ ([7, 2] : List Byte).length ≤ 2) :=
  ⟨by decide, by decide, by decide, by decide, answers_each (by decide), by decide⟩

/-- The record CLEAR, and ARMED while the vehicle moves in RUN. -/
theorem witness_ResetArming :
    State.reset.agent.resetArm = none ∧ (∀ data ∈ [[11, 7, 0], [12, 7, 12]], ∃ q, State.reset.Answers data q)
      ∧ (let s := next (running [] [(0, 10)]) (.resetArm [7])
         s.agent.resetArm ≠ none ∧ s.inRun = true ∧ s.stationary = false ∧ ∀ data ∈ [[12, 7, 13]], ∃ q, s.Answers data q) :=
  ⟨rfl, answers_each (by decide), by decide, by decide, by decide, answers_each (by decide)⟩

end Sys2Proof.Tests
end

section
/-! Ports: what an admission does to the queues and the offer record of a port, and that it keeps the port sound. -/

namespace Sys2Proof.Machine

/-! ## Queues and the arbiter -/

theorem holdsId_iff (q : List Frame) (id : FrameId) : holdsId q id = true ↔ id ∈ q.map Frame.id := by
  simp only [holdsId, List.any_eq_true, decide_eq_true_eq, List.mem_map]

/-- Admitting one frame keeps the identifiers in their order, a new one at the end (R18, R19). -/
theorem map_id_admitFrame (q : List Frame) (f : Frame) :
    (admitFrame q f).map Frame.id = if holdsId q f.id then q.map Frame.id else q.map Frame.id ++ [f.id] := by
  unfold admitFrame
  split
  · rw [List.map_map]
    refine List.map_congr_left fun g _ => ?_
    simp only [Function.comp]
    split
    · rename_i h
      exact h.symm
    · rfl
  · simp

theorem map_id_foldl_admitFrame (fs q : List Frame) :
    ∃ tail, (fs.foldl admitFrame q).map Frame.id = q.map Frame.id ++ tail := by
  induction fs generalizing q with
  | nil => exact ⟨[], by simp⟩
  | cons f fs ih =>
    obtain ⟨tail, h⟩ := ih (admitFrame q f)
    rw [List.foldl_cons, h, map_id_admitFrame]
    split
    · exact ⟨tail, rfl⟩
    · exact ⟨f.id :: tail, by simp⟩

theorem nodup_foldl_admitFrame (fs q : List Frame) (h : (q.map Frame.id).Nodup) :
    ((fs.foldl admitFrame q).map Frame.id).Nodup := by
  induction fs generalizing q with
  | nil => exact h
  | cons f fs ih =>
    refine ih _ ?_
    rw [map_id_admitFrame]
    split
    · exact h
    · rename_i hf
      rw [Bool.not_eq_true, ← Bool.not_eq_true, holdsId_iff] at hf
      exact List.nodup_append.mpr ⟨h, by simp, by simpa using fun a ha e => hf (by simpa [e] using ⟨a, ha, e⟩)⟩

/-- A waiting frame keeps its place and its identifier, and its content where the set does not hold the identifier. -/
theorem getElem?_foldl_admitFrame (fs q : List Frame) {i : Nat} {f : Frame} (h : q[i]? = some f) :
    ∃ g, (fs.foldl admitFrame q)[i]? = some g ∧ g.id = f.id ∧ (f.id ∉ fs.map Frame.id → g = f) := by
  induction fs generalizing q f with
  | nil => exact ⟨f, h, rfl, fun _ => rfl⟩
  | cons e fs ih =>
    have one : ∃ g, (admitFrame q e)[i]? = some g ∧ g.id = f.id ∧ (f.id ≠ e.id → g = f) := by
      unfold admitFrame
      split
      · refine ⟨if f.id = e.id then e else f, by simp [h], ?_, fun hn => if_neg hn⟩
        split
        · rename_i he
          exact he.symm
        · rfl
      · obtain ⟨hi, -⟩ := List.getElem?_eq_some_iff.mp h
        exact ⟨f, by rw [List.getElem?_append_left hi, h], rfl, fun _ => rfl⟩
    obtain ⟨g, hg, hid, hne⟩ := one
    obtain ⟨g', hg', hid', hne'⟩ := ih _ hg
    refine ⟨g', hg', hid'.trans hid, fun hn => ?_⟩
    obtain ⟨hn1, hn2⟩ : f.id ≠ e.id ∧ f.id ∉ fs.map Frame.id := by simpa using hn
    rw [hne' (hid ▸ hn2), hne hn1]

theorem newFrames_anti {q q' : List Frame} (h : ∀ id, holdsId q id = true → holdsId q' id = true) (fs : List Frame) :
    newFrames q' fs ≤ newFrames q fs := by
  refine List.Sublist.length_le (List.monotone_filter_right _ fun f hf => ?_)
  simp only [Bool.not_eq_true', ← Bool.not_eq_true] at hf ⊢
  exact fun hq => hf (h _ hq)

theorem length_foldl_admitFrame_le (fs q : List Frame) :
    (fs.foldl admitFrame q).length ≤ q.length + newFrames q fs := by
  induction fs generalizing q with
  | nil => simp
  | cons f fs ih =>
    have grown : ∀ id, holdsId q id = true → holdsId (admitFrame q f) id = true := by
      intro id
      rw [holdsId_iff, holdsId_iff, map_id_admitFrame]
      split <;> simp +contextual
    have size : (admitFrame q f).length + newFrames q fs ≤ q.length + newFrames q (f :: fs) := by
      have := congrArg List.length (map_id_admitFrame q f)
      simp only [List.length_map] at this
      rw [this]
      cases hf : holdsId q f.id <;> simp [newFrames, hf]; omega
    exact (ih _).trans ((Nat.add_le_add_left (newFrames_anti grown fs) _).trans size)

theorem PortState.choice_congr {x y : PortState} (hl : y.link = x.link) (hp : y.priority = x.priority)
    (ho : y.ordinary = x.ordinary) : y.choice = x.choice := by
  simp only [PortState.choice, hl, hp, ho]

@[simp] theorem PortState.choice_arbitrate (x : PortState) : x.arbitrate.choice = x.choice :=
  PortState.choice_congr (by simp) (by simp) (by simp)

/-- What the arbiter chooses names the head of its queue, and it chooses nothing only over empty queues (R20). -/
theorem PortState.offerSound_of_choice {x : PortState} (h : x.offer = x.choice) : x.offerSound := by
  obtain ⟨link, priority, ordinary, offer⟩ := x
  simp only [PortState.choice] at h
  split at h <;> subst h <;> simp [PortState.offerSound, PortState.queue, *]

theorem PortState.arbitrate_offerSound {x : PortState} (h : x.offer = .empty) : x.arbitrate.offerSound :=
  PortState.offerSound_of_choice (by rw [x.arbitrate_offer, if_pos h, x.choice_arbitrate])

/-- A port's soundness, queue by queue. -/
theorem PortState.sound_iff (x : PortState) : x.Sound ↔
    (∀ k, (x.queue k).length ≤ k.capacity ∧ ((x.queue k).map Frame.id).Nodup)
      ∧ (x.link = .busOff → (∀ k, x.queue k = []) ∧ x.offer = .empty) ∧ x.offerSound := by
  constructor
  · rintro ⟨hp, ho, dp, d, hs, hf⟩
    refine ⟨fun k => ?_, fun hb => ?_, hf⟩
    · cases k
      · exact ⟨hp, dp⟩
      · exact ⟨ho, d⟩
    · obtain ⟨h1, h2, h3⟩ := hs hb
      exact ⟨fun k => by cases k <;> assumption, h3⟩
  · rintro ⟨hq, hs, hf⟩
    exact ⟨(hq .priority).1, (hq .ordinary).1, (hq .priority).2, (hq .ordinary).2,
      fun hb => ⟨(hs hb).1 .priority, (hs hb).1 .ordinary, (hs hb).2⟩, hf⟩

@[simp] theorem PortState.queue_withOffer (x : PortState) (o : Offer) (k : QueueKind) :
    ({ x with offer := o } : PortState).queue k = x.queue k := by
  cases k <;> rfl

/-- The queues after an admission: the set folded into its own queue, the other as it was. -/
theorem PortState.admission_queue {x y : PortState} {k : QueueKind} {fs : List Frame}
    (h : x.admission k fs = some y) (k' : QueueKind) :
    y.queue k' = if k' = k then fs.foldl admitFrame (x.queue k) else x.queue k' := by
  obtain ⟨-, -, rfl⟩ := PortState.admission_eq_some.mp h
  split
  · rename_i e
    subst e
    simp
  · rename_i e
    simp [PortState.queue_setQueue_of_ne _ e]

theorem PortState.admission_link {x y : PortState} {k : QueueKind} {fs : List Frame}
    (h : x.admission k fs = some y) : y.link = x.link := by
  obtain ⟨-, -, rfl⟩ := PortState.admission_eq_some.mp h
  simp

/-- The offer record after an admission: the arbiter chooses where nothing was on offer (R19, R20). -/
theorem PortState.admission_offer {x y : PortState} {k : QueueKind} {fs : List Frame}
    (h : x.admission k fs = some y) :
    y.offer = if x.offer = .empty then y.choice else x.offer.afterAdmission k fs := by
  obtain ⟨-, -, rfl⟩ := PortState.admission_eq_some.mp h
  rw [PortState.choice_arbitrate, PortState.arbitrate_offer, PortState.setQueue_offer]
  cases x.offer <;> simp [Offer.afterAdmission]

/-- Admission keeps a port sound (R18, R19, R20). -/
theorem PortState.Sound.admission {x y : PortState} {k : QueueKind} {fs : List Frame} (hx : x.Sound)
    (h : x.admission k fs = some y) : y.Sound := by
  rw [PortState.sound_iff] at hx ⊢
  obtain ⟨hq, -, hoffer⟩ := hx
  obtain ⟨hactive, hfits, -⟩ := PortState.admission_eq_some.mp h
  refine ⟨fun k' => ?_, fun hb => ?_, ?_⟩
  · rw [PortState.admission_queue h]
    split
    · rename_i e
      subst e
      exact ⟨(length_foldl_admitFrame_le _ _).trans hfits, nodup_foldl_admitFrame _ _ (hq _).2⟩
    · exact hq k'
  · rw [PortState.admission_link h, hactive] at hb
    cases hb
  · have ho := PortState.admission_offer h
    cases hc : x.offer with
    | empty => exact PortState.offerSound_of_choice (by rw [ho, if_pos hc])
    | awaiting content => simp [PortState.offerSound, ho, hc, Offer.afterAdmission]
    | onOffer k' content renewed =>
      simp only [hc, reduceCtorEq, if_false, Offer.afterAdmission] at ho
      simp only [PortState.offerSound, hc] at hoffer
      cases hh : (x.queue k').head? with
      | none => simp [hh] at hoffer
      | some f =>
        simp only [hh] at hoffer
        obtain ⟨hid, hsame⟩ := hoffer
        have head : ∃ g, (y.queue k').head? = some g ∧ g.id = f.id
            ∧ ((decide (k' = k) && holdsId fs content.id) = false → g = f) := by
          rw [PortState.admission_queue h]
          split
          · rename_i e
            subst e
            rw [List.head?_eq_getElem?] at hh ⊢
            obtain ⟨g, hg, hgid, hgf⟩ := getElem?_foldl_admitFrame fs _ hh
            refine ⟨g, hg, hgid, fun hn => hgf ?_⟩
            rw [hid, ← holdsId_iff]
            simpa using hn
          · exact ⟨f, hh, rfl, fun _ => rfl⟩
        obtain ⟨g, hg, hgid, hgf⟩ := head
        simp only [PortState.offerSound, ho, hg]
        refine ⟨hgid.trans hid, fun hr => ?_⟩
        rw [Bool.or_eq_false_iff] at hr
        rw [hgf hr.2, hsame hr.1]

/-! ## Ports change by admissions alone -/

/-- One admission. -/
def PortState.Admits (x y : PortState) : Prop := ∃ k fs, x.admission k fs = some y

/-- Both ports come from what they were by admissions alone: what every block may do to them. -/
def State.PortsGrow (s t : State) : Prop :=
  ∀ p, Relation.ReflTransGen PortState.Admits (s.ports.get p) (t.ports.get p)

theorem State.PortsGrow.of_eq {s t : State} (h : t.ports = s.ports) : s.PortsGrow t := by
  intro p
  rw [h]

theorem State.PortsGrow.refl (s : State) : s.PortsGrow s := .of_eq rfl

theorem State.PortsGrow.trans {s t u : State} (h : s.PortsGrow t) (h' : t.PortsGrow u) : s.PortsGrow u :=
  fun p => (h p).trans (h' p)

theorem State.PortsGrow.of_changes {bs : List Block} {s t : State} (h : State.ChangesOnly bs s t)
    (hb : Block.ports ∉ bs := by decide) : s.PortsGrow t := .of_eq (h.get .ports hb)

theorem State.PortsGrow.ite {s t u : State} {c : Prop} [Decidable c] (h : s.PortsGrow t) (h' : s.PortsGrow u) :
    s.PortsGrow (if c then t else u) := by
  split
  · exact h
  · exact h'

theorem State.PortsGrow.of_offerSet {s t : State} {p : Port} {k : QueueKind} {fs : List Frame}
    (h : s.offerSet p k fs = some t) : s.PortsGrow t := by
  obtain ⟨x, hx, rfl⟩ := State.offerSet_eq_some.mp h
  intro q
  by_cases e : q = p
  · subst e
    simpa using Relation.ReflTransGen.single ⟨k, fs, hx⟩
  · simp [PerPort.get_set_of_ne _ _ _ _ e, Relation.ReflTransGen.refl]

theorem PortState.Sound.grows {x y : PortState} (hx : x.Sound) (h : Relation.ReflTransGen PortState.Admits x y) :
    y.Sound := by
  induction h with
  | refl => exact hx
  | tail _ h ih =>
    obtain ⟨k, fs, h⟩ := h
    exact ih.admission h

/-- A BUS_OFF port admits nothing, so it stays as it stands (R2). -/
theorem PortState.eq_of_grows_of_busOff {x y : PortState} (hx : x.link = .busOff)
    (h : Relation.ReflTransGen PortState.Admits x y) : y = x := by
  induction h with
  | refl => rfl
  | tail _ h ih =>
    subst ih
    obtain ⟨k, fs, h⟩ := h
    rw [PortState.admission_of_busOff hx] at h
    cases h

theorem State.PortsGrow.sound {s t : State} (h : s.PortsGrow t) (hs : s.portsSound) : t.portsSound :=
  fun p => (hs p).grows (h p)

end Sys2Proof.Machine
end

section
/-! Frames of the operations that Laws/Frames.lean leaves out, and what each operation may do to the ports. -/

namespace Sys2Proof.Machine

/-! ## The blocks that the remaining operations may change -/

theorem State.echoExpiry_changes (s : State) (k : EchoKind) : State.ChangesOnly [.echoes] s (s.echoExpiry k) := by
  simp only [State.echoExpiry]
  refine .ite (.refl _ _) ?_
  split
  · exact s.setEcho_changes _ _
  · exact s.settleEcho_changes _ _ _

theorem State.activeSinceExpiry_changes (s : State) (c : Corner) :
    State.ChangesOnly [.levels, .board] s (s.activeSinceExpiry c) :=
  .ite (.refl _ _) (.comp ((s.setCorner_changes _ _).trans (State.latchLevel_changes _ _))
    (State.postLimit_changes _ _))

theorem State.kneelArmExpiry_changes (s : State) :
    State.ChangesOnly [.kneel, .board, .brakes] s s.kneelArmExpiry := by
  unfold State.kneelArmExpiry
  refine .ite (.refl _ _) ?_
  split
  · exact .comp (s.enterRide_changes false) (State.latchKneel_changes _ _)
  all_goals exact (s.setKneel_changes _).mono (by decide)

theorem State.kneelDeadlineExpiry_changes (s : State) :
    State.ChangesOnly [.kneel, .board, .brakes, .levels] s s.kneelDeadlineExpiry := by
  unfold State.kneelDeadlineExpiry
  refine .ite (.refl _ _) ?_
  split
  · exact .comp s.enterPaused_changes (State.latchKneel_changes _ _)
  · exact .comp (s.enterRide_changes false) (.comp (State.latchKneel_changes _ _)
      (.comp (State.postLimit_changes _ _) (State.setKneel_changes _ _) (bs := [.kneel, .board]))
      (bs := [.kneel, .board]))
  all_goals exact (s.setKneel_changes _).mono (by decide)

theorem State.doorArmExpiry_changes (s : State) (d : Door) :
    State.ChangesOnly [.doors, .board] s (s.doorArmExpiry d) := by
  simp only [State.doorArmExpiry]
  exact .ite (.refl _ _) (.ite (.comp (s.setDoor_changes _ _)
    (.comp (State.syncReason_changes _ _) (State.latchDoor_changes _ _) (bs := [.doors, .board])))
    ((s.setDoor_changes _ _).mono (by decide)))

theorem State.lockProofExpiry_changes (s : State) (d : Door) :
    State.ChangesOnly [.ports, .doors, .board] s (s.lockProofExpiry d) := by
  simp only [State.lockProofExpiry]
  exact .ite (.refl _ _) (.ite (.comp ((s.setDoor_changes _ _).trans (State.latchEvent_changes _ _ _))
    (.comp (State.syncReason_changes _ _) (State.offerDoor_changes _ _ _) (bs := [.ports, .doors, .board])))
    ((s.setDoor_changes _ _).mono (by decide)))

theorem State.releaseHoldExpiry_changes (s : State) (d : Door) :
    State.ChangesOnly [.ports, .doors, .board, .kneel, .levels] s (s.releaseHoldExpiry d) := by
  simp only [State.releaseHoldExpiry]
  exact .ite (.refl _ _) (.ite (s.moveDoor_changes _ _ _) ((s.setDoor_changes _ _).mono (by decide)))

theorem State.tractionNotice_changes (s : State) : State.ChangesOnly [.board] s s.tractionNotice := by
  refine .ite (fun b hb => ?_) (.refl _ _)
  cases b <;> first | rfl | exact absurd (by decide) hb

theorem State.kneelLevelTrigger_changes (s : State) :
    State.ChangesOnly [.kneel, .board, .levels, .brakes] s s.kneelLevelTrigger := s.kneelReevaluate_changes _

theorem State.kneelTrigger_changes (s : State) :
    State.ChangesOnly [.kneel, .board, .levels, .brakes] s s.kneelTrigger := s.kneelReevaluate_changes _

/-- What the blocks may change at a delivery that is no cycle mark: not the tables, the slots, the frame path or the agent. -/
theorem State.deliver_changes (s : State) {d : Delivery} (h : d ≠ .sync) :
    State.ChangesOnly [.ports, .board, .track, .steering, .joints, .brakes, .levels, .kneel, .doors, .echoes] s
      (s.deliver d) := by
  cases d with
  | odometer => exact s.odometerTrigger_changes.mono (by decide)
  | steer => exact s.steerTrigger_changes.mono (by decide)
  | joints => exact s.jointTrigger_changes.mono (by decide)
  | brake => exact s.brakeTrigger_changes.mono (by decide)
  | level a => exact (s.levelTrigger_changes a).mono (by decide)
  | kneelLevel => exact s.kneelLevelTrigger_changes.mono (by decide)
  | door d => exact (s.doorTrigger_changes d).mono (by decide)
  | kneel => exact s.kneelTrigger_changes.mono (by decide)
  | traction => exact s.tractionNotice_changes.mono (by decide)
  | levelRequest => exact s.levelRequestNotice_changes.mono (by decide)
  | doorRequest d => exact (s.doorRequest_changes d).mono (by decide)
  | brakeEcho => exact s.recomputeHalt_changes.mono (by decide)
  | echo k => exact (s.echoArrival_changes k).mono (by decide)
  | loss l => exact (s.takeLoss_changes false l).mono (by decide)
  | sync => exact absurd rfl h

/-- A mark of the table store leaves the node number, the kneel sequencer, the joints, the brakes, the agent and the queue
of commands. -/
theorem State.storeMark_changes (s : State) :
    State.ChangesOnly [.slots, .path, .steering, .echoes, .board, .ports, .levels, .doors, .orderCount, .track, .tables] s
      s.storeMark.1 := by
  have tables : ∀ ts, State.ChangesOnly [.tables] s { s with tables := ts } := by
    intro ts b hb
    cases b <;> first | rfl | exact absurd (by decide) hb
  unfold State.storeMark
  split
  · exact .refl _ _
  · exact (tables _).mono (by decide)
  · exact .comp (tables _) (State.applicationEffects_changes _ _ _)

/-- A cycle mark leaves the node number, the agent and the queue of commands. -/
theorem State.cycleMark_changes (s : State) (b : Bool) :
    State.ChangesOnly [.slots, .path, .steering, .echoes, .board, .ports, .levels, .doors, .orderCount, .track, .tables,
      .joints, .brakes, .kneel] s (s.cycleMark b) := by
  simp only [State.cycleMark]
  refine .trans (s.storeMark_changes.mono (by decide)) (.ite ?_ (.refl _ _))
  exact State.takeAll_changes _ (by decide) fun a _ t => (t.markAction_changes a).mono (by decide)

theorem State.clearFaults_changes (s : State) :
    State.ChangesOnly [.path, .board, .steering, .joints, .brakes, .levels, .kneel, .doors, .echoes, .agent] s
      s.clearFaults := by
  intro b hb
  cases b <;> first | rfl | exact absurd (by decide) hb

theorem State.syncLost_changes (s : State) : State.ChangesOnly [.path, .board] s s.syncLost := by
  unfold State.syncLost
  split
  · exact .refl _ _
  · intro b hb
    cases b <;> first | rfl | exact absurd (by decide) hb

/-! ## What each operation may do to the ports -/

namespace State.PortsGrow

theorem offerSteer (s : State) (c3 c4 : SteerCommand) : s.PortsGrow (s.offerSteer c3 c4) := by
  unfold State.offerSteer
  split
  · rename_i h
    exact (of_offerSet h).trans (of_changes ((State.steerEmitted_changes _ _ _).trans (State.steerEmitted_changes _ _ _)))
  · exact of_changes (s.latchSteering_changes _)

theorem steerTrigger (s : State) : s.PortsGrow s.steerTrigger := by
  simp only [State.steerTrigger]
  exact (of_changes ((s.settleRear_changes .a3).trans (State.settleRear_changes _ .a4))).trans (offerSteer _ _ _)

theorem steerMark (s : State) : s.PortsGrow s.steerMark :=
  .ite (.refl _) ((of_changes ((s.lockRear_changes .a3).trans (State.lockRear_changes _ .a4))).trans (offerSteer _ _ _))

theorem offerDamping (s : State) : s.PortsGrow s.offerDamping := by
  simp only [State.offerDamping]
  split
  · rename_i h
    exact of_offerSet h
  · exact of_eq rfl

theorem jointTrigger (s : State) : s.PortsGrow s.jointTrigger :=
  (of_changes ((s.settleJoint_changes .j1).trans (State.settleJoint_changes _ .j2))).trans
    ((of_changes (State.writeStretch_changes _)).trans (offerDamping _))

theorem jointMark (s : State) : s.PortsGrow s.jointMark := by
  simp only [State.jointMark]
  refine .ite (.refl _) (.trans ?_ (offerDamping _))
  exact of_eq rfl

theorem computePressures (s : State) (demand : Nat) : s.PortsGrow (s.computePressures demand) := by
  simp only [State.computePressures]
  have settled : s.PortsGrow (s.recordLoads (PerAxle.ofFn s.axleLoad)).brakeLimit :=
    (of_changes (s.recordLoads_changes _)).trans (of_changes (State.brakeLimit_changes _))
  refine settled.trans ?_
  split
  · rename_i h
    exact (of_offerSet h).trans (of_changes (State.brakesEmitted_changes _ _))
  · exact of_changes (State.latchBrake_changes _ _)

theorem computeStale (s : State) : s.PortsGrow s.computeStale :=
  (PortsGrow.ite (of_changes (s.latchBrake_changes _)) (.refl _)).trans (computePressures _ _)

theorem brakeTrigger (s : State) : s.PortsGrow s.brakeTrigger := by
  unfold State.brakeTrigger
  split
  · exact computePressures _ _
  · exact computeStale _

theorem brakeMark (s : State) : s.PortsGrow s.brakeMark := .ite (.refl _) (computeStale _)

theorem offerValves (s : State) (a : Axle) (l r : ValveCommand) : s.PortsGrow (s.offerValves a l r) := by
  unfold State.offerValves
  split
  · rename_i h
    exact of_offerSet h
  · exact of_changes (s.latchLevel_changes _)

theorem levelTrigger (s : State) (a : Axle) : s.PortsGrow (s.levelTrigger a) :=
  (of_changes s.returnCheck_changes).trans
    ((of_changes ((State.sampleCorner_changes _ _).trans (State.sampleCorner_changes _ _))).trans
      ((of_changes ((State.setCorner_changes _ _ _).trans (State.setCorner_changes _ _ _))).trans
        ((of_changes (State.settleSlow_changes _)).trans (offerValves _ _ _ _))))

theorem heightLoss (s : State) (c : Corner) : s.PortsGrow (s.heightLoss c) := by
  simp only [State.heightLoss]
  refine .trans (.trans ?_ (.ite (of_changes (State.latchLevel_changes _ _)) (.refl _))) (.ite (offerValves _ _ _ _) (.refl _))
  exact .trans (of_changes (State.setCorner_changes _ _ _)) (of_changes (State.settleSlow_changes _))

theorem offerDoor (s : State) (d : Door) (c : DoorCommand) : s.PortsGrow (s.offerDoor d c) := by
  unfold State.offerDoor
  split
  · rename_i h
    exact (of_offerSet h).trans (of_changes (State.setDoor_changes _ _ _))
  · exact of_changes (s.latchDoor_changes _)

theorem losePosition (s : State) (d : Door) (b : Bool) : s.PortsGrow (s.losePosition d b) := by
  simp only [State.losePosition]
  refine .ite (.refl _) (PortsGrow.trans ?_ ((of_changes (State.syncReason_changes _ d)).trans (offerDoor _ _ _)))
  exact PortsGrow.trans (t := if _ then _ else _)
    (.ite (of_changes ((s.setDoor_changes _ _).trans (State.latchEvent_changes _ _ _))) (of_changes (s.setDoor_changes _ _)))
    (.ite (of_changes (State.latchDoor_changes _ _)) (.refl _))

theorem doorTrigger (s : State) (d : Door) : s.PortsGrow (s.doorTrigger d) := by
  simp only [State.doorTrigger]
  refine .ite (.refl _) ?_
  split
  · exact losePosition _ _ _
  · refine .trans (.trans ?_ (.ite (of_changes (State.latchEvent_changes _ _ _)) (.refl _))) (offerDoor _ _ _)
    exact .trans (of_changes (State.stepDoor_changes _ _ _ _)) (of_changes (State.afterTransition_changes _ _ _))

theorem moveDoor (s : State) (d : Door) (x : DoorState) (g : Bool) : s.PortsGrow (s.moveDoor d x g) :=
  (of_changes (s.setDoor_changes _ _)).trans ((of_changes (State.afterTransition_changes _ _ _)).trans (offerDoor _ _ _))

theorem doorRequest (s : State) (d : Door) : s.PortsGrow (s.doorRequest d) := by
  simp only [State.doorRequest]
  repeat' split
  all_goals first
    | exact .refl _
    | exact moveDoor _ _ _ _
    | exact of_changes (.comp (bs := [.doors, .board]) (s.setDoor_changes _ _) (State.syncReason_changes _ _))

theorem lockProofExpiry (s : State) (d : Door) : s.PortsGrow (s.lockProofExpiry d) := by
  simp only [State.lockProofExpiry]
  exact .ite (.refl _) (.ite ((of_changes ((s.setDoor_changes _ _).trans (State.latchEvent_changes _ _ _))).trans
    ((of_changes (State.syncReason_changes _ _)).trans (offerDoor _ _ _))) (of_changes (s.setDoor_changes _ _)))

theorem releaseHoldExpiry (s : State) (d : Door) : s.PortsGrow (s.releaseHoldExpiry d) := by
  simp only [State.releaseHoldExpiry]
  exact .ite (.refl _) (.ite (moveDoor _ _ _ _) (of_changes (s.setDoor_changes _ _)))

/-- Events taken in a free order grow the ports where each of them does. -/
theorem takeAll {α : Type} {take : α → State → State} {es : List α} (s : State)
    (h : ∀ e ∈ es, ∀ t : State, t.PortsGrow (take e t)) : s.PortsGrow (s.takeAll take es) :=
  State.takeAll_induction (P := fun t => s.PortsGrow t) (fun _ ht => ht.trans (of_eq rfl))
    (fun e he t ht => ht.trans (h e he t)) (.refl s)

theorem takeLoss (s : State) (b : Bool) (l : Loss) : s.PortsGrow (s.takeLoss b l) := by
  cases l with
  | height c => exact heightLoss s c
  | position d => exact losePosition s d b
  | brakeEcho a => exact of_changes s.recomputeHalt_changes

theorem fitApplied (s : State) : s.PortsGrow s.fitApplied := by
  simp only [State.fitApplied]
  refine PortsGrow.trans (of_eq ?_) ((of_changes (State.clearRings_changes _)).trans
    (takeAll _ fun l _ t => takeLoss t true l))
  exact apply_ite State.ports _ _ _ |>.trans (ite_self _)

theorem doIf (s : State) (b : Bool) {f : State → State} (h : ∀ t : State, t.PortsGrow (f t)) : s.PortsGrow (s.doIf b f) :=
  .ite (h s) (.refl s)

theorem applicationEffects (s : State) (old : ActiveTables) (set : PerTable Bool) :
    s.PortsGrow (s.applicationEffects old set) := by
  simp only [State.applicationEffects]
  refine .trans (.trans (.trans (.trans (.trans (.trans (doIf _ _ fun t => ?_) (doIf _ _ fun t => ?_))
    (doIf _ _ fun t => ?_)) (doIf _ _ fun t => ?_)) (doIf _ _ fun t => ?_)) (doIf _ _ fun t => ?_)) (doIf _ _ fun t => ?_)
  · exact of_changes t.doorsApplied_changes
  · exact of_changes t.cornerApplied_changes
  · exact of_changes t.replaceLimits_changes
  · exact of_changes t.clearLastAngles_changes
  · exact of_changes (t.trackApplied_changes old)
  · exact fitApplied t
  · exact of_changes (State.kerbRequest_changes _ _)

theorem storeMark (s : State) : s.PortsGrow s.storeMark.1 := by
  simp only [State.storeMark]
  split
  · exact .refl _
  · exact of_eq rfl
  · refine .trans ?_ (applicationEffects _ _ _)
    exact of_eq rfl

theorem offerChassis (s : State) : s.PortsGrow s.offerChassis := by
  unfold State.offerChassis
  split
  · rename_i h
    exact of_offerSet h
  · exact of_eq rfl

theorem markAction (s : State) (a : MarkAction) : s.PortsGrow (s.markAction a) := by
  cases a with
  | chassis => exact offerChassis s
  | steering => exact steerMark s
  | joints => exact jointMark s
  | brakes => exact brakeMark s
  | kneel b => exact of_changes (s.kneelMark_changes b)
  | followSync => exact of_changes s.followSync_changes

theorem cycleMark (s : State) (b : Bool) : s.PortsGrow (s.cycleMark b) := by
  simp only [State.cycleMark]
  exact (storeMark s).trans (.ite (takeAll _ fun a _ t => markAction t a) (.refl _))

theorem cycleExpiry (s : State) : s.PortsGrow s.cycleExpiry := by
  unfold State.cycleExpiry
  refine .ite (.refl _) ?_
  split
  · exact of_changes (s.setCycleTimer_changes _)
  · exact (cycleMark s false).trans (of_changes (State.setCycleTimer_changes _ _))

theorem deliver (s : State) (d : Delivery) : s.PortsGrow (s.deliver d) := by
  cases d with
  | odometer => exact of_changes s.odometerTrigger_changes
  | steer => exact steerTrigger s
  | joints => exact jointTrigger s
  | brake => exact brakeTrigger s
  | level a => exact levelTrigger s a
  | kneelLevel => exact of_changes s.kneelLevelTrigger_changes
  | door d => exact doorTrigger s d
  | kneel => exact of_changes s.kneelTrigger_changes
  | traction => exact of_changes s.tractionNotice_changes
  | levelRequest => exact of_changes s.levelRequestNotice_changes
  | doorRequest d => exact doorRequest s d
  | brakeEcho => exact of_changes s.recomputeHalt_changes
  | echo k => exact of_changes (s.echoArrival_changes k)
  | loss l => exact takeLoss s false l
  | sync => exact cycleMark s _

theorem handOn (s : State) (b : Bool) (ds : List Delivery) : s.PortsGrow (s.handOn b ds) := by
  simp only [State.handOn]
  refine .ite (.ite ((takeAll _ fun d _ t => deliver t d).trans (cycleMark _ _)) ?_) ?_
  all_goals exact takeAll _ fun d _ t => deliver t d

theorem forward (s : State) (p : Port) (f : Frame) : s.PortsGrow (s.forward p f) := by
  unfold State.forward
  split
  · rename_i h
    exact of_offerSet h
  · exact of_changes (s.latchPath_changes _)

theorem forwardRewritten (s : State) (p : Port) (f : Frame) (rw : Rewrite) : s.PortsGrow (s.forwardRewritten p f rw) := by
  simp only [State.forwardRewritten]
  split
  · rename_i h
    refine (of_offerSet h).trans (of_eq ?_)
    split <;> rfl
  · exact of_changes (s.latchPath_changes _)

theorem accept (s : State) (p : Port) (f : Frame) (m : Matched) (c : Option (BitVec 4)) :
    s.PortsGrow (s.accept p f m c) := by
  simp only [State.accept]
  refine PortsGrow.trans ?_ (handOn _ _ _)
  refine PortsGrow.trans (t := if _ then _ else _) (of_eq ?_) (.ite (forwardRewritten _ _ _ _) (.refl _))
  split <;> rfl

theorem matched (s : State) (p : Port) (f : Frame) (m : Matched) : s.PortsGrow (s.matched p f m) := by
  simp only [State.matched]
  refine .ite (of_changes (s.latchPath_changes _)) ?_
  split
  · exact accept _ _ _ _ _
  · split
    · exact of_changes (s.latchPath_changes _)
    · exact (of_changes (s.latchPath_changes _)).trans (accept _ _ _ _ _)

theorem unmatched (s : State) (p : Port) (f : Frame) : s.PortsGrow (s.unmatched p f) := by
  unfold State.unmatched
  split
  · exact .refl _
  · exact .ite (forward _ _ _) (.refl _)

theorem classify (s : State) (p : Port) (f : Frame) : s.PortsGrow (s.classify p f) := by
  unfold State.classify
  refine .ite ?_ (.refl _)
  split
  · exact matched _ _ _ _
  · exact unmatched _ _ _

theorem watchExpiry (s : State) (i : Fin 96) : s.PortsGrow (s.watchExpiry i) := by
  simp only [State.watchExpiry]
  refine .ite (.refl _) (PortsGrow.trans ?_ (takeAll _ fun l _ t => takeLoss t false l))
  split
  · exact of_eq rfl
  · refine .ite (.trans ?_ (of_changes (State.syncLost_changes _))) ?_
    all_goals exact of_eq rfl

end State.PortsGrow

end Sys2Proof.Machine
end

section
/-! Requests and their responses; what a command can do to the ports; the statements about the ports in every step. -/

namespace Sys2Proof.Machine

/-! ## Management requests -/

/-- What the effect of an admitted request leaves as it stands: the ports, the slots, the track, the active tables, the part
state and the cycle mark source. -/
structure State.RequestEffect (s t : State) : Prop where
  blocks : State.ChangesOnly
    [.path, .board, .steering, .joints, .brakes, .levels, .kneel, .doors, .echoes, .tables, .agent] s t
  cycle : t.path.cycle = s.path.cycle
  active : t.tables.active = s.tables.active
  partState : t.tables.partState = s.tables.partState

theorem State.RequestEffect.refl (s : State) : s.RequestEffect s := ⟨.refl _ _, rfl, rfl, rfl⟩

theorem State.RequestEffect.trans {s t u : State} (h : s.RequestEffect t) (h' : t.RequestEffect u) : s.RequestEffect u :=
  ⟨h.blocks.trans h'.blocks, h'.cycle.trans h.cycle, h'.active.trans h.active, h'.partState.trans h.partState⟩

theorem State.RequestEffect.of_changes {bs : List Block} {s t : State} (h : State.ChangesOnly bs s t)
    (hb : ∀ b ∈ bs, b ∈ [Block.board, .steering, .joints, .brakes, .levels, .kneel, .doors, .echoes, .agent] := by decide) :
    s.RequestEffect t := by
  have h := h.mono hb
  have path : t.path = s.path := h.get .path
  have tables : t.tables = s.tables := h.get .tables
  exact ⟨h.mono (by decide), by rw [path], by rw [tables], by rw [tables]⟩

/-- A request whose effects touch the store keeps the active tables where each of its steps does. -/
theorem State.RequestEffect.of_tables {s : State} {ts : TableStore} (ha : ts.active = s.tables.active)
    (hp : ts.partState = s.tables.partState) : s.RequestEffect { s with tables := ts } := by
  refine ⟨fun b hb => ?_, rfl, ha, hp⟩
  cases b <;> first | rfl | exact absurd (by decide) hb

theorem State.clearFaults_effect (s : State) : s.RequestEffect s.clearFaults :=
  ⟨s.clearFaults_changes.mono (by decide), rfl, rfl, rfl⟩

@[simp] theorem TableStore.cancel_active (ts : TableStore) : ts.cancel.active = ts.active := by
  unfold TableStore.cancel
  split <;> rfl

@[simp] theorem TableStore.cancel_partState (ts : TableStore) : ts.cancel.partState = ts.partState := by
  unfold TableStore.cancel
  split <;> rfl

/-- A DISCARD leaves the active copies and the part state (R182). -/
theorem TableStore.discard_active (ts : TableStore) (mask : PerTable Bool) :
    (ts.discard mask).active = ts.active ∧ (ts.discard mask).partState = ts.partState := by
  unfold TableStore.discard
  have fold : ∀ (ns : List TableName) (us : TableStore),
      (ns.foldl (fun us n => us.stage (restoreTable us.staged us.active n) n) us).active = us.active
        ∧ (ns.foldl (fun us n => us.stage (restoreTable us.staged us.active n) n) us).partState = us.partState := by
    intro ns
    induction ns with
    | nil => exact fun us => ⟨rfl, rfl⟩
    | cons n ns ih => exact fun us => ih _
  obtain ⟨ha, hp⟩ := fold (tableList mask) ts.cancel
  exact ⟨ha.trans ts.cancel_active, hp.trans ts.cancel_partState⟩

/-- `t` answers a request in `s`: a response offered, and at its admission effects that `RequestEffect` bounds. -/
def State.Responds (s t : State) : Prop :=
  ∃ code tag r effect, t = s.respond code tag r effect ∧ ∀ u : State, u.RequestEffect (effect u)

theorem State.responds_answer (s : State) (code tag : Byte) (r : Reply) {effect : State → State}
    (h : ∀ u : State, u.RequestEffect (effect u)) : s.Responds (s.answer code tag r effect) :=
  ⟨code, tag, r, fun u => (effect u).disarm, rfl, fun u => (h u).trans (.of_changes (State.disarm_changes _))⟩

theorem State.responds_deny (s : State) (code tag : Byte) (e : Status) : s.Responds (s.deny code tag e) :=
  s.responds_answer _ _ _ State.RequestEffect.refl

theorem State.responds_ite {s t u : State} {c : Prop} [Decidable c] (h : s.Responds t) (h' : s.Responds u) :
    s.Responds (if c then t else u) := by
  split
  · exact h
  · exact h'

theorem State.responds_identRequest (s : State) (rest : List Byte) : s.Responds (s.identRequest rest) := by
  unfold State.identRequest
  refine State.responds_ite (s.responds_deny _ _ _) ?_
  split
  · exact s.responds_answer _ _ _ State.RequestEffect.refl
  · exact s.responds_deny _ _ _

theorem State.responds_statusRequest (s : State) (rest : List Byte) : s.Responds (s.statusRequest rest) := by
  unfold State.statusRequest
  split
  · exact s.responds_deny _ _ _
  · refine s.responds_answer _ _ _ fun u => ?_
    split
    · exact u.clearFaults_effect
    · exact .refl u

theorem State.responds_readRequest (s : State) (rest : List Byte) : s.Responds (s.readRequest rest) := by
  unfold State.readRequest
  split
  · exact s.responds_deny _ _ _
  · split
    · exact s.responds_deny _ _ _
    · exact s.responds_answer _ _ _ fun u => .of_changes (u.setCursor_changes _)

theorem State.responds_writeRequest (s : State) (rest : List Byte) : s.Responds (s.writeRequest rest) := by
  unfold State.writeRequest
  split
  · exact s.responds_deny _ _ _
  · refine State.responds_ite (s.responds_deny _ _ _) ?_
    split
    · exact s.responds_deny _ _ _
    · exact s.responds_answer _ _ _ fun u =>
        .trans (.of_tables (ts := u.tables.stage _ _) rfl rfl) (.of_changes (State.setCursor_changes _ _))

theorem State.responds_swapRequest (s : State) (rest : List Byte) : s.Responds (s.swapRequest rest) := by
  unfold State.swapRequest
  split
  · exact s.responds_deny _ _ _
  · refine State.responds_ite (s.responds_deny _ _ _) ?_
    split
    · exact s.responds_deny _ _ _
    · exact State.responds_ite (s.responds_answer _ _ _ State.RequestEffect.refl)
        (s.responds_answer _ _ _ fun u => .of_tables (ts := u.tables.stage _ _) rfl rfl)

theorem State.responds_commitRequest (s : State) (rest : List Byte) : s.Responds (s.commitRequest rest) := by
  unfold State.commitRequest
  split
  · exact s.responds_deny _ _ _
  · refine s.responds_answer _ _ _ fun u => ?_
    split
    · exact .of_tables rfl rfl
    · exact .refl u

theorem State.responds_discardRequest (s : State) (rest : List Byte) : s.Responds (s.discardRequest rest) := by
  unfold State.discardRequest
  split
  · exact s.responds_deny _ _ _
  · exact s.responds_answer _ _ _ fun u => .of_tables (TableStore.discard_active _ _).1 (TableStore.discard_active _ _).2

theorem State.responds_eventsRequest (s : State) (rest : List Byte) : s.Responds (s.eventsRequest rest) := by
  unfold State.eventsRequest
  split
  · exact s.responds_deny _ _ _
  · refine s.responds_answer _ _ _ fun u => ?_
    split
    · exact .of_changes (u.clearLatches_changes _)
    · exact .refl u

theorem State.responds_resetArmRequest (s : State) (rest : List Byte) : s.Responds (s.resetArmRequest rest) := by
  refine ⟨_, _, _, _, rfl, fun u => .of_changes (bs := [.agent]) fun b hb => ?_⟩
  cases b <;> first | rfl | exact absurd (by decide) hb

/-- A RESET_GO that finds the record CLEAR, or the vehicle moving in RUN, is answered alone (R196). -/
theorem State.responds_resetGoRequest (s : State) (rest : List Byte)
    (h : s.agent.resetArm = none ∨ (s.inRun = true ∧ s.stationary = false)) : s.Responds (s.resetGoRequest rest) := by
  unfold State.resetGoRequest
  split
  · exact ⟨_, _, _, _, rfl, State.RequestEffect.refl⟩
  · rename_i ha
    obtain ⟨hr, hs⟩ := h.resolve_left ha
    rw [if_pos (by simp [hr, hs])]
    exact ⟨_, _, _, _, rfl, fun u => .of_changes u.disarm_changes⟩

/-- A RESET_GO that performs the in-band reset (R196, R197). -/
theorem State.resetGoRequest_of_armed (s : State) (rest : List Byte) (ha : s.agent.resetArm ≠ none)
    (h : s.inRun = false ∨ s.stationary = true) : s.resetGoRequest rest = s.resetAnswered rest := by
  unfold State.resetGoRequest
  rw [if_neg ha, if_neg]
  rcases h with h | h <;> simp [h]

/-- Whether a command is a RESET_GO that performs the in-band reset. -/
def State.resetsBy (s : State) (i : Instr) : Prop :=
  (∃ rest, i = .resetGo rest) ∧ s.agent.resetArm ≠ none ∧ (s.inRun = false ∨ s.stationary = true)

/-- Every request but a RESET_GO that resets is answered, with effects that `RequestEffect` bounds. -/
theorem State.responds_takeRequest (s : State) {i : Instr} (hi : requestData i ≠ none) (h : ¬ s.resetsBy i) :
    s.Responds (s.takeRequest i) := by
  cases i with
  | ident rest => exact s.responds_identRequest rest
  | status rest => exact s.responds_statusRequest rest
  | read rest => exact s.responds_readRequest rest
  | write rest => exact s.responds_writeRequest rest
  | swap rest => exact s.responds_swapRequest rest
  | commit rest => exact s.responds_commitRequest rest
  | hold rest => exact s.responds_answer _ _ _ fun u => .of_tables rfl rfl
  | release rest => exact s.responds_answer _ _ _ fun u => .of_tables rfl rfl
  | discard rest => exact s.responds_discardRequest rest
  | events rest => exact s.responds_eventsRequest rest
  | resetArm rest => exact s.responds_resetArmRequest rest
  | resetGo rest =>
    refine s.responds_resetGoRequest rest ?_
    by_contra hc
    refine h ⟨⟨rest, rfl⟩, fun ha => hc (.inl ha), ?_⟩
    by_cases hr : s.inRun = true
    · exact .inr (by simpa using fun hs => hc (.inr ⟨hr, hs⟩))
    · exact .inl (by simpa using hr)
  | badRequest data => exact s.responds_deny _ _ _
  | _ => exact absurd rfl hi

/-- A request is taken by the agent, whichever of its commands it is. -/
theorem exec_request {i : Instr} (hi : requestData i ≠ none) (s : State) : exec i s = .next (s.takeRequest i) := by
  cases i with
  | ident _ | status _ | read _ | write _ | swap _ | commit _ | hold _ | release _ | discard _ | events _ | resetArm _
  | resetGo _ | badRequest _ => rfl
  | _ => exact absurd rfl hi

theorem requestData_requestOfData (data : List Byte) : requestData (requestOfData data) ≠ none := by
  unfold requestOfData
  split
  · simp [requestData]
  · split <;> simp [requestData]

/-- What taking a request can come to. -/
theorem State.takeRequest_cases (s : State) {i : Instr} (hi : requestData i ≠ none) :
    s.Responds (s.takeRequest i) ∨ ∃ rest, s.resetsBy i ∧ s.takeRequest i = s.resetAnswered rest := by
  by_cases h : s.resetsBy i
  · obtain ⟨⟨rest, rfl⟩, ha, hs⟩ := h
    exact .inr ⟨rest, ⟨⟨rest, rfl⟩, ha, hs⟩, s.resetGoRequest_of_armed rest ha hs⟩
  · exact .inl (s.responds_takeRequest hi h)

/-- A response is the effect on the state with the response admitted, or the two faults of a refusal. -/
theorem State.Responds.cases {s t : State} (h : s.Responds t) :
    (∃ u code tag r, s.offerSet .u .ordinary [s.responseFrame code tag r] = some u ∧ u.RequestEffect t)
      ∨ t = s.responseRefused := by
  obtain ⟨code, tag, r, effect, rfl, heffect⟩ := h
  unfold State.respond
  split
  · rename_i u hu
    exact .inl ⟨u, code, tag, r, hu, heffect u⟩
  · exact .inr rfl

theorem State.PortsGrow.responds {s t : State} (h : s.Responds t) : s.PortsGrow t := by
  obtain ⟨u, _, _, _, hu, heffect⟩ | rfl := h.cases
  · exact (of_offerSet hu).trans (of_changes heffect.blocks)
  · exact of_changes s.responseRefused_changes

theorem State.PortsGrow.resetAnswered (s : State) (rest : List Byte) :
    s.inBandReset.PortsGrow (s.resetAnswered rest) ∨ s.resetAnswered rest = s.responseRefused := by
  simp only [State.resetAnswered]
  split
  · rename_i h
    exact .inl (of_offerSet h)
  · exact .inr rfl

/-! ## Every command -/

/-- What a command can do to the ports: admissions alone, unless it is a reset, a report of a link controller, or carries
an in-band reset. -/
theorem exec_ports {c : Instr} {s t : State} (h : exec c s = .next t) :
    s.PortsGrow t ∨ s.inBandReset.PortsGrow t ∨ (∃ straps, (c = .powerOn straps ∨ c = .resetLine straps) ∧ t = s.hardReset straps)
      ∨ (∃ p, c = .busOff p ∧ t = s.busOff p) ∨ (∃ p, c = .recovery p ∧ t = s.recovery p)
      ∨ ∃ p, c = .transmitComplete p ∧ t = s.transmitComplete p := by
  have request : ∀ i, requestData i ≠ none → s.PortsGrow (s.takeRequest i) ∨ s.inBandReset.PortsGrow (s.takeRequest i) := by
    intro i hi
    obtain hr | ⟨rest, -, hr⟩ := s.takeRequest_cases hi
    · exact .inl (.responds hr)
    · rw [hr]
      obtain hg | hg := State.PortsGrow.resetAnswered s rest
      · exact .inr hg
      · exact .inl (hg ▸ .of_changes s.responseRefused_changes)
  by_cases hi : requestData c = none
  · cases c with
    | powerOn straps => cases h; exact .inr (.inr (.inl ⟨straps, .inl rfl, rfl⟩))
    | resetLine straps => cases h; exact .inr (.inr (.inl ⟨straps, .inr rfl, rfl⟩))
    | busOff p => cases h; exact .inr (.inr (.inr (.inl ⟨p, rfl, rfl⟩)))
    | recovery p => cases h; exact .inr (.inr (.inr (.inr (.inl ⟨p, rfl, rfl⟩))))
    | transmitComplete p => cases h; exact .inr (.inr (.inr (.inr (.inr ⟨p, rfl, rfl⟩))))
    | frameArrival p f =>
      obtain rfl : s.frameArrival p f = t := Host.Outcome.next.inj h
      unfold State.frameArrival
      split
      · exact .inl (.refl s)
      · split
        · exact (request _ (requestData_requestOfData f.data)).imp_right .inl
        · exact .inl (.classify s p f)
    | watchExpiry i => cases h; exact .inl (.watchExpiry s i)
    | cycleTimerExpiry => cases h; exact .inl (.cycleExpiry s)
    | echoTimerExpiry k => cases h; exact .inl (.of_changes (s.echoExpiry_changes k))
    | activeSinceExpiry c => cases h; exact .inl (.of_changes (s.activeSinceExpiry_changes c))
    | kneelArmTimerExpiry => cases h; exact .inl (.of_changes s.kneelArmExpiry_changes)
    | kneelDeadlineExpiry => cases h; exact .inl (.of_changes s.kneelDeadlineExpiry_changes)
    | doorArmTimerExpiry d => cases h; exact .inl (.of_changes (s.doorArmExpiry_changes d))
    | lockProofExpiry d => cases h; exact .inl (.lockProofExpiry s d)
    | releaseHoldExpiry d => cases h; exact .inl (.releaseHoldExpiry s d)
    | resetArmTimerExpiry => cases h; exact .inl (.of_changes s.disarm_changes)
    | _ => cases hi
  · rw [exec_request hi] at h
    cases h
    exact (request c hi).imp_right .inl

/-! ## Soundness of the ports -/

/-- The queues without the head of one. -/
theorem PortState.queue_dropHead (x : PortState) (k k' : QueueKind) :
    (x.dropHead k).queue k' = if k' = k then (x.queue k).tail else x.queue k' := by
  unfold PortState.dropHead
  split
  · rename_i e
    subst e
    simp
  · rename_i e
    rw [PortState.queue_setQueue_of_ne _ e]

@[simp] theorem PortState.dropHead_link (x : PortState) (k : QueueKind) : (x.dropHead k).link = x.link := by
  simp [PortState.dropHead]

/-- A completion keeps a port sound: the frame on offer leaves the head of its queue, or stays there renewed (R21). -/
theorem PortState.complete_sound {x : PortState} (hx : x.Sound) : x.complete.Sound := by
  have hx' := x.sound_iff.mp hx
  obtain ⟨hq, hsilent, hoffer⟩ := hx'
  have choosing : ∀ y : PortState, y.link = x.link → (∀ k, (y.queue k).Sublist (x.queue k)) → y.offer = .empty →
      y.arbitrate.Sound := by
    intro y hl hsub ho
    rw [PortState.sound_iff]
    refine ⟨fun k => ?_, fun hb => ?_, y.arbitrate_offerSound ho⟩
    · rw [PortState.arbitrate_queue]
      exact ⟨(hsub k).length_le.trans (hq k).1, ((hsub k).map _).nodup (hq k).2⟩
    · rw [PortState.arbitrate_link, hl] at hb
      refine ⟨fun k => ?_, ?_⟩
      · rw [PortState.arbitrate_queue]
        exact List.sublist_nil.mp ((hsilent hb).1 k ▸ hsub k)
      · rw [PortState.arbitrate_of_busOff (hl.trans hb), ho]
  unfold PortState.complete
  split
  · exact hx
  · exact choosing _ rfl (fun k => by simp) rfl
  · rename_i k content renewed hc
    split
    · rw [PortState.sound_iff]
      refine ⟨by simpa using hq, fun hb => ?_, ?_⟩
      · rw [(hsilent hb).2] at hc
        cases hc
      · simp only [PortState.offerSound, hc] at hoffer
        cases hh : (x.queue k).head? with
        | none => simp [hh] at hoffer
        | some f => simp [PortState.offerSound, hh]
    · refine choosing _ (x.dropHead_link k) (fun k' => ?_) rfl
      rw [PortState.queue_withOffer, PortState.queue_dropHead]
      split
      · rename_i e
        exact e ▸ List.tail_sublist _
      · exact .refl _

theorem PortState.reset_sound : PortState.reset.Sound := by
  rw [PortState.sound_iff]
  refine ⟨fun k => ?_, fun h => ?_, fun _ => ⟨rfl, rfl⟩⟩
  · cases k <;> simp [PortState.reset, PortState.queue]
  · cases h

theorem PortState.inBandReset_sound (x : PortState) (h : x.link = .busOff → x.offer = .empty) : x.inBandReset.Sound := by
  rw [PortState.sound_iff]
  refine ⟨fun k => by cases k <;> simp [PortState.inBandReset, PortState.queue], fun hb => ⟨fun k => ?_, ?_⟩, ?_⟩
  · cases k <;> rfl
  · simp [PortState.inBandReset, h hb]
  · cases ho : x.offer <;> simp [PortState.inBandReset, PortState.offerSound, ho]

/-- Both ports stay sound where one is replaced by a sound one. -/
theorem State.portsSound_set {s t : State} {p : Port} {x : PortState} (hs : s.portsSound) (ht : t.ports = s.ports.set p x)
    (hx : x.Sound) : t.portsSound := by
  intro q
  rw [ht]
  by_cases e : q = p
  · subst e
    simpa using hx
  · simpa [PerPort.get_set_of_ne _ _ _ _ e] using hs q

/-- The ports after a bus-off report (R2, R3). -/
theorem State.busOff_ports (s : State) (p : Port) : (s.busOff p).ports =
    if (s.ports.get p).link = .busOff then s.ports
    else s.ports.set p { link := .busOff, priority := [], ordinary := [], offer := .empty } := by
  unfold State.busOff
  cases (s.ports.get p).link <;> rfl

/-- The ports after a recovery report (R3). -/
theorem State.recovery_ports (s : State) (p : Port) : (s.recovery p).ports =
    if (s.ports.get p).link = .busOff then s.ports.set p ({ s.ports.get p with link := .active }).arbitrate
    else s.ports := by
  unfold State.recovery
  cases (s.ports.get p).link <;> rfl

/-- A port that recovers is empty: its queues were (R2, R3). -/
theorem PortState.recovered {x : PortState} (hx : x.Sound) (h : x.link = .busOff) :
    ({ x with link := .active } : PortState).arbitrate = .reset := by
  obtain ⟨link, priority, ordinary, offer⟩ := x
  obtain ⟨hp, ho, hoffer⟩ := hx.silent h
  simp only at hp ho hoffer
  subst hp ho hoffer
  rfl

theorem exec_portsSound {c : Instr} {s t : State} (hs : s.portsSound) (h : exec c s = .next t) : t.portsSound := by
  obtain hg | hg | ⟨straps, -, rfl⟩ | ⟨p, -, rfl⟩ | ⟨p, -, rfl⟩ | ⟨p, -, rfl⟩ := exec_ports h
  · exact hg.sound hs
  · refine hg.sound fun p => ?_
    rw [State.inBandReset, PerPort.get_ofFn]
    exact PortState.inBandReset_sound _ fun hb => ((hs p).silent hb).2.2
  · intro p
    simpa [State.hardReset, State.reset] using PortState.reset_sound
  · by_cases hb : (s.ports.get p).link = .busOff
    · intro q
      rw [State.busOff_ports, if_pos hb]
      exact hs q
    · refine State.portsSound_set hs (by rw [State.busOff_ports, if_neg hb]) ?_
      exact PortState.inBandReset_sound { link := .busOff, priority := [], ordinary := [], offer := .empty } fun _ => rfl
  · by_cases hb : (s.ports.get p).link = .busOff
    · refine State.portsSound_set hs (by rw [State.recovery_ports, if_pos hb]) ?_
      rw [PortState.recovered (hs p) hb]
      exact PortState.reset_sound
    · intro q
      rw [State.recovery_ports, if_neg hb]
      exact hs q
  · exact State.portsSound_set hs rfl (PortState.complete_sound (hs p))

/-- With no command waiting, time passes or an expiry joins the queue: no more than that (log entry 2). -/
theorem State.idle_cases (s : State) :
    s.idle = s.tick ∨ ∃ c n, s.idle = { s with pending := [c], orderCount := n } := by
  unfold State.idle
  split
  · exact .inl rfl
  · rename_i e _
    exact .inr ⟨e, s.orderCount, rfl⟩
  · exact .inr ⟨_, _, rfl⟩

/-- What a step can do: time passes, an expiry joins the queue, or the front command is executed. -/
theorem step_cases {s t : State} (h : step s = .next t) :
    t = s.tick ∨ (∃ c n, t = { s with pending := [c], orderCount := n })
      ∨ ∃ c rest, s.pending = c :: rest ∧ exec c { s with pending := rest } = .next t := by
  unfold step at h
  split at h
  · cases h
    exact s.idle_cases.imp_right .inl
  · rename_i c rest hp
    exact .inr (.inr ⟨c, rest, hp, h⟩)

/-- Settles O11: ports change by admissions alone, but for the link controllers' reports and the resets. -/
theorem portsStaySound : Obligations.PortsStaySound := by
  intro s t hs h
  obtain rfl | ⟨c, n, rfl⟩ | ⟨c, rest, -, he⟩ := step_cases h
  · exact hs
  · exact hs
  · exact exec_portsSound (s := { s with pending := rest }) hs he

/-- Settles O10: admissions leave a BUS_OFF port, a completion finds nothing on offer there, and an in-band reset finds
nothing to empty. -/
theorem silentWhileBusOff : Obligations.SilentWhileBusOff := by
  intro p c s t hsound hoff hrec hpow hline h
  have silent := hsound.silent hoff
  have reset : s.inBandReset.ports.get p = s.ports.get p := by
    obtain ⟨hp, ho, hoffer⟩ := silent
    rw [State.inBandReset, PerPort.get_ofFn]
    cases hx : s.ports.get p
    simp_all [PortState.inBandReset]
  have other : ∀ {q : Port} (x : PortState), q ≠ p → (s.ports.set q x).get p = s.ports.get p :=
    fun x hq => PerPort.get_set_of_ne _ _ _ _ hq.symm
  obtain hg | hg | ⟨straps, hc, -⟩ | ⟨q, -, rfl⟩ | ⟨q, rfl, rfl⟩ | ⟨q, -, rfl⟩ := exec_ports h
  · exact PortState.eq_of_grows_of_busOff hoff (hg p)
  · exact (PortState.eq_of_grows_of_busOff (by rw [reset, hoff]) (hg p)).trans reset
  · exact absurd hc (by simp [hpow, hline])
  · rw [State.busOff_ports]
    split
    · rfl
    · rename_i hq
      exact other _ fun e => hq (e ▸ hoff)
  · rw [State.recovery_ports]
    split
    · exact other _ fun e => hrec (by rw [e])
    · rfl
  · by_cases e : q = p
    · subst e
      simp [State.transmitComplete, PortState.complete, silent.2.2]
    · exact other _ e

end Sys2Proof.Machine
end

section
/-! Statements about the links, the queues and admission. -/

namespace Sys2Proof.Machine

/-! ## Completion -/

@[simp] theorem PerPort.set_get_self {α : Type} (r : PerPort α) (p : Port) : r.set p (r.get p) = r := by
  cases p <;> rfl

/-- Nothing else is on offer once the record is empty (R20). -/
theorem PortState.arbitrate_offer_of_empty {x : PortState} (h : x.offer = .empty) : x.arbitrate.offer = x.choice := by
  rw [PortState.arbitrate_offer, if_pos h]

@[simp] theorem PortState.complete_link (x : PortState) : x.complete.link = x.link := by
  unfold PortState.complete
  split
  · rfl
  · simp
  · split <;> simp

theorem PortState.complete_awaiting {x : PortState} {content : Frame} (h : x.offer = .awaiting content) :
    (∀ k, x.complete.queue k = x.queue k) ∧ x.complete.offer = x.complete.choice := by
  simp only [PortState.complete, h, PortState.choice_arbitrate]
  exact ⟨fun k => by simp, PortState.arbitrate_offer_of_empty rfl⟩

theorem PortState.complete_unrenewed {x : PortState} {k : QueueKind} {content : Frame}
    (h : x.offer = .onOffer k content false) :
    (∀ k', x.complete.queue k' = if k' = k then (x.queue k).tail else x.queue k')
      ∧ x.complete.offer = x.complete.choice := by
  simp only [PortState.complete, h, Bool.false_eq_true, if_false, PortState.choice_arbitrate]
  refine ⟨fun k' => ?_, PortState.arbitrate_offer_of_empty rfl⟩
  rw [PortState.arbitrate_queue, PortState.queue_withOffer, PortState.queue_dropHead]

theorem PortState.complete_renewed {x : PortState} {k : QueueKind} {content : Frame}
    (h : x.offer = .onOffer k content true) :
    (∀ k', x.complete.queue k' = x.queue k')
      ∧ x.complete.offer = .onOffer k (((x.queue k).head?).getD content) false := by
  simp only [PortState.complete, h, if_true]
  exact ⟨fun k' => by simp, trivial⟩

/-- Settles O8, offer by offer. -/
theorem transmitCompleteReport : Obligations.TransmitCompleteReport := by
  intro p s
  have after : (s.transmitComplete p).ports.get p = (s.ports.get p).complete := by simp [State.transmitComplete]
  refine ⟨s.transmitComplete p, rfl, ?_⟩
  rw [after]
  refine ⟨rfl, PortState.complete_link _, ?_⟩
  rcases ho : (s.ports.get p).offer with _ | ⟨k, content, _ | _⟩ | content
  · simp [State.transmitComplete, PortState.complete, ho, State.setPort]
  · obtain ⟨hq, hoffer⟩ := PortState.complete_unrenewed ho
    exact ⟨by simp [hq], fun k' hk => by simp [hq, hk], hoffer⟩
  · obtain ⟨hq, hoffer⟩ := PortState.complete_renewed ho
    exact ⟨hq, fun f hf => by rw [hoffer, hf]; rfl⟩
  · exact PortState.complete_awaiting ho

/-! ## Admission -/

/-- Where a set holds no identifier twice, admission puts each frame of the set in the place of the waiting frames of its
identifier, and the others at the end in the set's order (R18, R19). -/
theorem foldl_admitFrame_eq (fs q : List Frame) (h : (fs.map Frame.id).Nodup) :
    fs.foldl admitFrame q = (q.map fun g => (fs.find? fun f => decide (f.id = g.id)).getD g)
      ++ fs.filter fun f => decide (f.id ∉ q.map Frame.id) := by
  induction fs generalizing q with
  | nil => simp
  | cons f fs ih =>
    obtain ⟨hf, hfs⟩ := List.nodup_cons.mp h
    have absent : ∀ e ∈ fs, e.id ≠ f.id := fun e he hid => hf (hid ▸ List.mem_map_of_mem he)
    have skip : fs.find? (fun e => decide (e.id = f.id)) = none := by
      simpa using fun e he => absent e he
    rw [List.foldl_cons, ih _ hfs, map_id_admitFrame]
    unfold admitFrame
    cases hold : holdsId q f.id with
    | true =>
      have waits : f.id ∈ q.map Frame.id := (holdsId_iff q f.id).mp hold
      simp only [if_true, List.map_map]
      rw [List.filter_cons_of_neg (by simpa using waits)]
      congr 1
      refine List.map_congr_left fun g _ => ?_
      by_cases hg : g.id = f.id
      · simp [hg, skip]
      · simp [hg, Ne.symm hg]
    | false =>
      have fresh : f.id ∉ q.map Frame.id := fun hm => by simp [(holdsId_iff q f.id).mpr hm] at hold
      simp only [Bool.false_eq_true, if_false, List.map_append, List.map_cons, List.map_nil, skip, Option.getD_none]
      rw [List.filter_cons_of_pos (by simpa using fresh), List.append_assoc, List.singleton_append]
      congr 1
      · refine List.map_congr_left fun g hg => ?_
        have : f.id ≠ g.id := fun e => fresh (e ▸ List.mem_map_of_mem hg)
        simp [this]
      · congr 1
        refine List.filter_congr fun e he => ?_
        simp [absent e he]

theorem newFrames_eq (q fs : List Frame) :
    newFrames q fs = (fs.filter fun f => decide (f.id ∉ q.map Frame.id)).length := by
  unfold newFrames
  congr 2
  funext f
  rw [Bool.eq_iff_iff, Bool.not_eq_true', ← Bool.not_eq_true, holdsId_iff, decide_eq_true_iff]

/-- Every frame of a set without a repeated identifier waits after its admission. -/
theorem mem_foldl_admitFrame_of_mem {fs q : List Frame} (h : (fs.map Frame.id).Nodup) {f : Frame} (hf : f ∈ fs) :
    f ∈ fs.foldl admitFrame q := by
  rw [foldl_admitFrame_eq fs q h, List.mem_append]
  by_cases hq : f.id ∈ q.map Frame.id
  · obtain ⟨g, hg, hid⟩ := List.mem_map.mp hq
    refine .inl (List.mem_map.mpr ⟨g, hg, ?_⟩)
    cases hfind : fs.find? fun f => decide (f.id = g.id) with
    | none => exact absurd hid.symm (by simpa using List.find?_eq_none.mp hfind f hf)
    | some e =>
      have he : e.id = g.id := by simpa using List.find?_some hfind
      exact List.inj_on_of_nodup_map h (List.mem_of_find?_eq_some hfind) hf (he.trans hid)
  · exact .inr (List.mem_filter.mpr ⟨hf, by simpa using hq⟩)

/-- Settles O9, from what admission folds into the queue. -/
theorem admissionRule : Obligations.AdmissionRule := by
  intro x k fs
  refine ⟨by simp only [PortState.admission, ite_eq_right_iff, reduceCtorEq, imp_false], fun y h => ?_⟩
  · have queue : y.queue k = fs.foldl admitFrame (x.queue k) := by rw [PortState.admission_queue h, if_pos rfl]
    have offer := PortState.admission_offer h
    refine ⟨PortState.admission_link h, fun k' hk => by rw [PortState.admission_queue h, if_neg hk], ?_, ?_, ?_, ?_, ?_, ?_⟩
    · rw [queue]
      exact map_id_foldl_admitFrame _ _
    · intro i f hf hid
      obtain ⟨g, hg, -, hsame⟩ := getElem?_foldl_admitFrame fs _ hf
      rw [queue, hg, hsame hid]
    · intro hnodup news
      rw [queue]
      have split := foldl_admitFrame_eq fs (x.queue k) hnodup
      have count := newFrames_eq (x.queue k) fs
      exact ⟨fun f hf => mem_foldl_admitFrame_of_mem hnodup hf, by rw [split, count]; simp, split, count⟩
    · intro he
      rw [offer, if_pos he]
    · intro content hc
      simp [offer, hc, Offer.afterAdmission]
    · intro k' content renewed hc
      have : holdsId fs content.id = decide (content.id ∈ fs.map Frame.id) := by
        rw [Bool.eq_iff_iff, holdsId_iff, decide_eq_true_iff]
      simp [offer, hc, Offer.afterAdmission, this]

/-! ## Bus-off and recovery -/

/-- Settles O6. -/
theorem busOffReport : Obligations.BusOffReport := by
  intro p s
  refine ⟨fun h => ?_, fun h => ⟨?_, fun k fs => ?_⟩⟩
  · show Host.Outcome.next (s.busOff p) = _
    simp only [State.busOff, h]
    cases p <;> rfl
  · show Host.Outcome.next (s.busOff p) = _
    simp only [State.busOff, h]
  · exact State.offerSet_eq_none.mpr (PortState.admission_of_busOff h k fs)

/-- One frame is admitted to an empty queue of an ACTIVE port (R18). -/
theorem PortState.admission_single {x : PortState} (hl : x.link = .active) {k : QueueKind} (hq : x.queue k = [])
    (f : Frame) : ∃ y, x.admission k [f] = some y := by
  have fits : newFrames [] [f] ≤ k.capacity := by
    cases k <;> simp [newFrames, holdsId, QueueKind.capacity]
  exact ⟨_, PortState.admission_eq_some.mpr ⟨hl, by simpa [hq] using fits, rfl⟩⟩

/-- Settles O7. -/
theorem recoveryReport : Obligations.RecoveryReport := by
  intro p s hsound
  refine ⟨fun h => ?_, fun h => ?_⟩
  · have next : s.recovery p = s.setPort p .reset := by
      simp only [State.recovery, h, PortState.recovered hsound h]
    refine ⟨s.setPort p .reset, congrArg _ next, rfl, ?_, ?_, fun k f => ?_⟩
    · rintro rfl
      exact Bool.and_false _
    · rintro rfl
      exact Bool.and_false _
    · rw [State.setPort_ports, PerPort.get_set_self]
      exact PortState.admission_single rfl (by cases k <;> rfl) f
  · show Host.Outcome.next (s.recovery p) = _
    simp only [State.recovery, h]

/-! ## Requests that Port U cannot answer -/

/-- A response that Port U refuses leaves the two faults of the agent alone (R186). -/
theorem State.Responds.eq_refused {s t : State} (h : s.Responds t)
    (hr : ∀ code tag r, s.ports.u.admission .ordinary [s.responseFrame code tag r] = none) : t = s.responseRefused := by
  obtain ⟨code, tag, r, effect, rfl, -⟩ := h
  obtain ⟨q, hq, -⟩ | ⟨-, h⟩ := s.respond_cases code tag r effect
  · rw [hr] at hq
    cases hq
  · exact h

/-- A queue of 32 other frames refuses a response (R17, R18). -/
theorem PortState.admission_of_full {x : PortState} {f : Frame} (hl : 32 ≤ x.ordinary.length)
    (hid : ∀ g ∈ x.ordinary, g.id ≠ f.id) : x.admission .ordinary [f] = none := by
  have fresh : holdsId x.ordinary f.id = false := by
    simpa [holdsId] using hid
  have new : newFrames x.ordinary [f] = 1 := by simp [newFrames, fresh]
  unfold PortState.admission
  rw [if_neg]
  rintro ⟨-, hc⟩
  simp only [PortState.queue, QueueKind.capacity, new] at hc
  omega

/-- Data of at most eight bytes are not padded (R187). -/
theorem padFd_of_length_le {bs : List Byte} (h : bs.length ≤ 8) : padFd bs = bs := by
  simp [padFd, fdLength, h]

/-- A response without a payload (R186, R187). -/
theorem State.responseFrame_bare (s : State) (code tag : Byte) (e : Status) :
    s.responseFrame code tag (bareReply e)
      = { id := .ext (responseId s.node), data := [code, tag, BitVec.ofNat 8 (statusCode e)] } := by
  simp [State.responseFrame, bareReply, byte, leBytes, padFd_of_length_le]

/-- A RESET_GO that performs the in-band reset: its response is the one frame in the emptied ordinary queue of Port U
(R196, R197). -/
theorem State.resetGo_performed (s : State) (rest : List Byte) (harm : s.agent.resetArm ≠ none)
    (hstill : s.inRun = false ∨ s.stationary = true) (hlink : s.ports.u.link = .active) :
    let reply : Frame := { id := .ext (responseId s.node), data := [12, tagOf rest, 0] }
    ∃ y, s.ports.u.inBandReset.admission .ordinary [reply] = some y ∧ y.ordinary = [reply]
      ∧ exec (.resetGo rest) s = .next { s.inBandReset with ports := s.inBandReset.ports.set .u y } := by
  intro reply
  have frame : s.responseFrame 12 (tagOf rest) (bareReply .done) = reply := s.responseFrame_bare 12 (tagOf rest) .done
  obtain ⟨y, hy⟩ := PortState.admission_single (x := s.ports.u.inBandReset) hlink (k := .ordinary) rfl reply
  have offered : s.inBandReset.offerSet .u .ordinary [reply]
      = some { s.inBandReset with ports := s.inBandReset.ports.set .u y } := State.offerSet_eq_some.mpr ⟨y, hy, rfl⟩
  refine ⟨y, hy, PortState.admission_queue hy .ordinary, ?_⟩
  show Host.Outcome.next (s.resetGoRequest rest) = _
  rw [State.resetGoRequest_of_armed _ _ harm hstill]
  simp only [State.resetAnswered, frame, offered]

/-- Settles O53: a response that Port U cannot queue is refused, whatever the request; only an in-band reset empties the
queue first. -/
theorem requestsWhileBusOff : Obligations.RequestsWhileBusOff := by
  refine ⟨?_, ?_⟩
  · intro i data s hdata
    have hi : requestData i ≠ none := by simp [hdata]
    rw [exec_request hi]
    refine ⟨fun hoff => ?_, fun ⟨hlen, hids⟩ hno => ?_⟩
    · obtain hr | ⟨rest, -, hr⟩ := s.takeRequest_cases hi
      · exact congrArg _ (hr.eq_refused fun _ _ _ => PortState.admission_of_busOff hoff _ _)
      · rw [hr]
        have : s.inBandReset.offerSet .u .ordinary [s.responseFrame 12 (tagOf rest) (bareReply .done)] = none :=
          State.offerSet_eq_none.mpr (PortState.admission_of_busOff (x := s.ports.u.inBandReset) hoff _ _)
        simp only [State.resetAnswered, this]
        rfl
    · exact congrArg _ ((s.responds_takeRequest hi hno).eq_refused fun _ _ _ => PortState.admission_of_full hlen hids)
  · intro rest s harm hstill hlink
    obtain ⟨y, hy, hqueue, next⟩ := s.resetGo_performed rest harm hstill hlink
    exact ⟨_, next, hqueue, rfl⟩

end Sys2Proof.Machine
end

section
/-! Statements about the resets, and that the invariants hold right after power-on. -/

namespace Sys2Proof.Machine

/-! ## Every block at its reset values -/

/-- A state whose blocks are the reset ones, whatever the members, the period, the deadline and the door states that the
kind of reset leaves (R197). -/
theorem State.blocksReset_of {t : State} {members : ReasonSet} {period : Nat} {deadline : Timer} {states : Door → DoorState}
    (path : t.path = .reset period) (slots : t.slots = Vector.replicate 64 .reset) (board : t.board = .reset members)
    (track : t.track = .reset) (steering : t.steering = .reset) (joints : t.joints = .reset) (brakes : t.brakes = .reset)
    (levels : t.levels = .reset) (kneel : t.kneel = .reset deadline) (doors : t.doors = .reset states)
    (echoes : t.echoes = .reset) (agent : t.agent = .reset) : t.BlocksReset where
  entries i := by simp [path, FramePath.reset, EntryRecord.reset]
  slots i := by simp [slots, SignalSlot.reset]
  latch := by rw [board]; rfl
  confirmed := by rw [board]; rfl
  limits k := by simp [board, Board.reset]
  stretch a := by simp [board, Board.reset]
  track := track
  rear r := by simp [steering, Steering.reset]
  limiter := by rw [steering]; rfl
  joints j := by simp [joints, Joints.reset]
  loads a := by simp [brakes, Brakes.reset]
  snapshot := by rw [brakes]; rfl
  corners c := by simp [levels, Levels.reset, CornerRecord.reset]
  ride := by rw [levels]; rfl
  kneel := by rw [kneel]; exact ⟨rfl, rfl, rfl⟩
  doors d := by simp [State.door, doors, Doors.reset, DoorRecord.reset]
  echoes k := by simp [echoes, Echoes.reset, EchoRecord.reset]
  cursor := by rw [agent]; rfl
  resetArm := by rw [agent]; rfl
  faults := by
    simp [State.summaryFlags, State.faultBits, path, board, steering, joints, brakes, levels, kneel, doors, echoes, agent,
      FramePath.reset, Board.reset, Steering.reset, Joints.reset, Brakes.reset, Levels.reset, Kneel.reset, Doors.reset,
      Echoes.reset, Agent.reset, PathFaults.empty, PathFaults.bits, BoardFaults.bits, SteeringFaults.bits, JointFaults.bits,
      BrakeFaults.bits, LevelFaults.bits, KneelFaults.bits, DoorFaults.bits, EchoFaults.bits, AgentFaults.bits]

theorem State.hardReset_blocksReset (s : State) (straps : BitVec 3) : (s.hardReset straps).BlocksReset :=
  State.blocksReset_of rfl rfl rfl rfl rfl rfl rfl rfl rfl rfl rfl rfl

/-- Settles O3. -/
theorem powerOnState : Obligations.PowerOnState := by
  intro straps s
  refine ⟨s.hardReset straps, rfl, rfl, rfl, rfl, fun p => ?_, rfl, fun m => ?_, rfl, fun d => ?_,
    s.hardReset_blocksReset straps, rfl, rfl, fun n => ?_, rfl, rfl, rfl⟩
  · cases p <;> rfl
  · cases m with
    | kneel => exact ⟨rfl, rfl⟩
    | door d => cases d <;> exact ⟨rfl, rfl⟩
  · cases d <;> rfl
  · simp [State.hardReset, State.reset, TableStore.reset]

/-! ## The in-band reset -/

theorem noTables_iff (set : PerTable Bool) : noTables set = true ↔ ∀ n, set.get n = false := by
  simp only [noTables, List.all_eq_true, Bool.not_eq_true']
  exact ⟨fun h n => h n (PerTable.mem_all n), fun h n _ => h n⟩

/-- What a cancellation leaves: the pending set empty, and an outcome only where a table was pending (R182, R184). -/
theorem TableStore.cancel_eq (ts : TableStore) :
    ((∀ n, ts.waiting.get n = false) ∧ ts.cancel = ts)
      ∨ ((∃ n, ts.waiting.get n = true) ∧ ts.cancel = { ts with
          waiting := PerTable.const false
          outcome := { tables := ts.waiting, result := .cancelled, epochs := ts.epochs } }) := by
  unfold TableStore.cancel
  split
  · rename_i h
    exact .inl ⟨(noTables_iff _).mp h, rfl⟩
  · rename_i h
    rw [noTables_iff] at h
    exact .inr ⟨by simpa using h, rfl⟩

/-- Settles O4, from the reset with its response queued. -/
theorem inBandReset : Obligations.InBandReset := by
  intro rest s harm hstill hlink reply
  obtain ⟨y, hy, hqueue, next⟩ := s.resetGo_performed rest harm hstill hlink
  have offer := PortState.admission_offer hy
  have priority : y.priority = [] := PortState.admission_queue hy .priority
  have choice : y.choice = .onOffer .ordinary reply false := by
    simp only [PortState.choice, (PortState.admission_link hy).trans hlink, priority, hqueue]
    rfl
  refine ⟨_, next, rfl, rfl, ?_, ?_, ?_, ?_, ?_, rfl, ?_, ?_, ?_, ?_, hqueue, rfl, ?_, ?_, ?_, ?_, rfl, rfl, ?_, rfl, rfl, ?_,
    State.blocksReset_of rfl rfl rfl rfl rfl rfl rfl rfl rfl rfl rfl rfl⟩
  · show s.tables.cancel.staged = _
    obtain ⟨-, h⟩ | ⟨-, h⟩ := s.tables.cancel_eq <;> rw [h]
  · exact s.tables.cancel_active
  · show s.tables.cancel.sums = _
    obtain ⟨-, h⟩ | ⟨-, h⟩ := s.tables.cancel_eq <;> rw [h]
  · show s.tables.cancel.epochs = _
    obtain ⟨-, h⟩ | ⟨-, h⟩ := s.tables.cancel_eq <;> rw [h]
  · exact s.tables.cancel_partState
  · intro n
    show s.tables.cancel.waiting.get n = false
    obtain ⟨hn, h⟩ | ⟨-, h⟩ := s.tables.cancel_eq
    · rw [h, hn]
    · rw [h, PerTable.get_const]
  · intro hn
    show s.tables.cancel.outcome = _
    obtain ⟨-, h⟩ | ⟨⟨n, hp⟩, -⟩ := s.tables.cancel_eq
    · rw [h]
    · rw [hn n] at hp
      cases hp
  · intro n hp
    show s.tables.cancel.outcome = _
    obtain ⟨hn, -⟩ | ⟨-, h⟩ := s.tables.cancel_eq
    · rw [hn n] at hp
      cases hp
    · rw [h]
  · intro p
    cases p
    · exact ⟨(PortState.admission_link hy :), priority⟩
    · exact ⟨rfl, rfl⟩
  · intro hu
    show y.offer = _
    rw [offer, if_pos (by simp [PortState.inBandReset, hu]), choice]
  · intro hd
    show s.ports.d.inBandReset.offer = _
    simp [PortState.inBandReset, hd]
  · intro p k content renewed hp
    cases p
    · have hu : s.ports.u.offer = _ := hp
      show y.offer = _
      simp [offer, PortState.inBandReset, hu, Offer.afterAdmission]
    · have hd : s.ports.d.offer = _ := hp
      show s.ports.d.inBandReset.offer = _
      simp [PortState.inBandReset, hd]
  · intro p content hp
    cases p
    · have hu : s.ports.u.offer = _ := hp
      show y.offer = _
      simp [offer, PortState.inBandReset, hu, Offer.afterAdmission]
    · have hd : s.ports.d.offer = _ := hp
      show s.ports.d.inBandReset.offer = _
      simp [PortState.inBandReset, hd]
  · intro d
    cases d <;> rfl
  · intro d
    cases d <;> rfl

/-! ## The invariants right after power-on -/

theorem State.reset_interlocksSound : State.reset.InterlocksSound where
  sameMembers := rfl
  kneelMember := rfl
  doorMember d := by cases d <;> rfl
  latched _ := rfl
  confirmed h := by cases h
  doors d := by
    cases d <;> exact ⟨nofun, rfl, nofun, nofun, fun _ => rfl⟩
  fitted d := by cases d <;> exact ⟨fun _ => rfl, fun _ => rfl⟩

theorem State.reset_limitsSound : State.reset.LimitsSound where
  steer r := by cases r <;> rfl
  joint j := by cases j <;> rfl
  levelHigh := rfl
  levelSlow := rfl
  kneelFault := rfl
  sync := rfl
  values k v h := by cases k <;> cases h

theorem State.reset_anglesSound : State.reset.AnglesSound where
  rear r := by cases r <;> decide
  front x h := by cases h

theorem State.reset_levelsSound : State.reset.levelsSound := by
  intro c
  cases c <;> exact ⟨Nat.zero_le _, fun _ => ⟨rfl, rfl⟩, rfl, fun h => by cases h.1⟩

theorem State.reset_kneelSound : State.reset.KneelSound where
  armTimer := rfl
  deadline h := by cases h
  configuring _ := ⟨rfl, rfl⟩
  snapshotRide h := by cases h
  snapshotLow h := by simp [State.reset, Kneel.reset] at h

theorem State.reset_cycleSound : State.reset.CycleSound where
  timer := rfl
  posted h := by cases h
  run _ := rfl

theorem State.reset_echoesSound : State.reset.echoesSound := by
  intro k
  rcases k with ⟨_ | _⟩ | ⟨_ | _ | _ | _⟩ <;>
    exact ⟨Nat.zero_le _, Nat.zero_le _, fun _ => Nat.succ_pos _, fun _ => ⟨rfl, rfl⟩⟩

/-- No active table fails a cross-check (R177). -/
theorem ActiveTables.absent_checked : ActiveTables.absent.Checked where
  geometry := rfl
  duplicate := by decide
  complete := rfl

theorem State.reset_tablesSound : State.reset.tables.Sound where
  sums n := by simp [State.reset, TableStore.reset]
  active := ActiveTables.absent_checked
  prospect := ActiveTables.absent_checked
  run := ⟨nofun, nofun⟩

theorem State.reset_trackSound : State.reset.trackSound :=
  ⟨⟨Nat.zero_le _, nofun, nofun⟩, fun _ => rfl⟩

/-- Settles O5, invariant by invariant. -/
theorem resetIsSound : Obligations.ResetIsSound :=
  ⟨fun p => by cases p <;> exact PortState.reset_sound, State.reset_interlocksSound, State.reset_limitsSound,
    State.reset_anglesSound, State.reset_levelsSound, State.reset_kneelSound, State.reset_cycleSound,
    State.reset_echoesSound, State.reset_tablesSound, State.reset_trackSound, fun d _ => by cases d <;> rfl⟩

end Sys2Proof.Machine
end

section
/-! Arrivals up to their acceptance: which arrivals are discarded, unmatched or taken by the agent; extraction; and the
rewrites of a forwarded frame. -/

namespace Sys2Proof.Machine

/-! ## Classification -/

/-- An arrival on an ACTIVE port that is no management request goes to the classifier (R5). -/
theorem State.frameArrival_of_active {s : State} {p : Port} {f : Frame} (hl : (s.ports.get p).link = .active)
    (hm : s.isManagement p f.id = false) : s.frameArrival p f = s.classify p f := by
  simp [State.frameArrival, hl, hm]

/-- Settles O12. -/
theorem configuringDiscards : Obligations.ConfiguringDiscards := by
  intro p f s hrun hm
  refine congrArg Host.Outcome.next ?_
  cases hl : (s.ports.get p).link with
  | busOff => simp only [State.frameArrival, hl]
  | active => simp [State.frameArrival_of_active hl hm, State.classify, hrun]

/-- The data of a request frame name the request that they were made from (R187). -/
theorem requestOfData_requestData {i : Instr} {data : List Byte} (hw : i.wellFormed = true)
    (h : requestData i = some data) : requestOfData data = i := by
  cases i with
  | badRequest d =>
    cases h
    cases data with
    | nil => rfl
    | cons code rest =>
      have unnamed : ¬(1 ≤ code.toNat ∧ code.toNat ≤ 12) := by
        simp only [Instr.wellFormed, badDataWellFormed, namesRequest, Bool.and_eq_true, Bool.not_eq_true',
          decide_eq_false_iff_not] at hw
        exact hw.2
      simp only [requestOfData]
      split
      case h_13 => rfl
      all_goals exact absurd ⟨by omega, by omega⟩ unnamed
  | _ => cases h <;> rfl

/-- Settles O13. -/
theorem managementFrame : Obligations.ManagementFrame := by
  intro i data s hw hdata hl
  rw [exec_request (i := i) (by simp [hdata])]
  refine congrArg Host.Outcome.next ?_
  have hl' : (s.ports.get .u).link = .active := hl
  have hm : s.isManagement .u (.ext (requestId s.node)) = true := by simp [State.isManagement]
  simp [State.frameArrival, hl', hm, requestOfData_requestData hw hdata]

/-- Settles O14. -/
theorem unmatchedArrival : Obligations.UnmatchedArrival := by
  intro p f s hrun hl hm hnone
  have arrival : s.frameArrival p f = s.unmatched p f := by
    simp [State.frameArrival_of_active hl hm, State.classify, hrun, hnone]
  refine ⟨?_, ?_, ?_⟩
  · rintro rfl
    exact congrArg _ arrival
  · rintro rfl hforbid
    refine congrArg _ (arrival.trans ?_)
    simp only [State.unmatched]
    rw [if_neg]
    rintro ⟨h1, h2⟩
    rcases hforbid with h | h
    · exact h h1
    · simp [h] at h2
  · rintro rfl hup hfree
    have forwarded : s.frameArrival .d f = s.forward .d f := by
      rw [arrival]
      simp [State.unmatched, hup, hfree]
    refine ⟨fun q hq => congrArg _ (forwarded.trans ?_), fun hq => congrArg _ (forwarded.trans ?_)⟩
    · have hq' : (s.ports.get .u).admission .ordinary [f] = some q := hq
      simp only [State.forward, State.offerSet, Port.other, hq']
      rfl
    · have hq' : (s.ports.get .u).admission .ordinary [f] = none := hq
      simp only [State.forward, State.offerSet, Port.other, hq']
      rfl

/-- A matched arrival is judged by its length and its counter (R5 to R9). -/
theorem State.Matches.frameArrival {s : State} {p : Port} {f : Frame} {m : Matched} (h : s.Matches p f m) :
    s.frameArrival p f = s.matched p f m := by
  simp [State.frameArrival_of_active h.active h.notManagement, State.classify, h.run, h.place, h.entry]

/-! ## Length and counter -/

theorem lt_foldl_max_iff {α : Type} (g : α → Nat) (n : Nat) (xs : List α) (m : Nat) :
    n < xs.foldl (fun m x => max m (g x)) m ↔ n < m ∨ ∃ x ∈ xs, n < g x := by
  induction xs generalizing m with
  | nil => simp
  | cons x xs ih => simp [ih, or_assoc]

/-- An arrival is too short where its data do not reach its counter, its rewrite field or an extractor (R8). -/
theorem Matched.tooShort_iff (m : Matched) (len : Nat) :
    m.tooShort len ↔ 8 * len < bitsNeeded m.entry m.rewrite m.extractors := by
  simp only [Matched.tooShort, bitsNeeded, lt_foldl_max_iff, lt_max_iff, or_assoc]
  refine or_congr ?_ (or_congr ?_ Iff.rfl)
  · cases m.entry.counter <;> simp
  · cases m.entry.forward <;> simp

/-- Settles O15. -/
theorem discardedArrivals : Obligations.DiscardedArrivals := by
  intro p f m s h
  refine ⟨fun hshort => congrArg _ (h.frameArrival.trans ?_), fun start r hlong hstart hr hrep =>
    congrArg _ (h.frameArrival.trans ?_)⟩
  · rw [Matched.tooShort_iff] at hshort
    simp only [State.matched, if_pos hshort]
    rfl
  · rw [Matched.tooShort_iff] at hlong
    have same : BitVec.ofNat 4 (fieldNat f.data start 4) = r := by rw [hrep]; simp
    simp only [State.matched, if_neg hlong, hstart, counterVerdict, hr, same, if_true]
    rfl

/-- What an accepted arrival is: the job of its entry, with the counter's fault settled before it (R8, R9). -/
theorem State.Accepts.frameArrival {s : State} {p : Port} {f : Frame} {m : Matched} (h : s.Accepts p f m) :
    ∃ jump : Bool,
      s.frameArrival p f = (s.latchPath fun x => { x with counterJump := x.counterJump || jump }).accept p f m
          (m.entry.counter.map fun start => BitVec.ofNat 4 (fieldNat f.data start 4))
        ∧ (∀ start r, m.entry.counter = some start → s.path.entries[m.place].counter = some r →
            jump = decide (BitVec.ofNat 4 (fieldNat f.data start 4) ≠ r + 1))
        ∧ (m.entry.counter = none ∨ s.path.entries[m.place].counter = none → jump = false) := by
  have long := h.longEnough
  rw [Matched.tooShort_iff] at long
  rw [h.matched.frameArrival]
  simp only [State.matched, if_neg long]
  cases hc : m.entry.counter with
  | none => exact ⟨false, by simp [State.latchPath], nofun, fun _ => rfl⟩
  | some start =>
    have fresh := h.counter start hc
    cases hr : s.path.entries[m.place].counter with
    | none => exact ⟨false, by simp [counterVerdict], by simp, fun _ => rfl⟩
    | some r =>
      have hne : BitVec.ofNat 4 (fieldNat f.data start 4) ≠ r := fun e => fresh (by rw [hr, e])
      by_cases hj : BitVec.ofNat 4 (fieldNat f.data start 4) = r + 1
      · have verdict : counterVerdict (some r) (BitVec.ofNat 4 (fieldNat f.data start 4)) = .accepted false := by
          simp only [counterVerdict, if_neg hne, if_pos hj]
        exact ⟨false, by simp only [verdict, Option.map_some], by simp_all, by simp⟩
      · have verdict : counterVerdict (some r) (BitVec.ofNat 4 (fieldNat f.data start 4)) = .accepted true := by
          simp only [counterVerdict, if_neg hne, if_neg hj]
        exact ⟨true, by simp only [verdict, Option.map_some], by simp_all, by simp⟩

/-! ## Extraction -/

/-- One more extractor runs after the others (R10). -/
theorem State.extract_append (s : State) (i : Fin 96) (xs : List Extractor) (x : Extractor) (data : List Byte) :
    s.extract i (xs ++ [x]) data = Extraction.run i data (s.extract i xs data) x := by
  simp [State.extract]

/-- The value that an extractor takes and whether it lies between the bounds, as numbers (R10). -/
theorem Extractor.take_eq (x : Extractor) (data : List Byte) :
    let n := fieldNat data x.start x.width
    let v : Int := if x.signed then signedOf x.width n else n
    let low : Int := if x.signed then x.minimum.toInt else x.minimum.toNat
    let high : Int := if x.signed then x.maximum.toInt else x.maximum.toNat
    x.take data = (BitVec.ofInt 32 v, decide (low ≤ v ∧ v ≤ high)) := by
  cases h : x.signed <;> simp [Extractor.take, h]

/-- Settles O18: the last extractor's run, plausible or not. -/
theorem extractionRule : Obligations.ExtractionRule := by
  intro s i xs x data _ _ a b n v low high
  have take : x.take data = (BitVec.ofInt 32 v, decide (low ≤ v ∧ v ≤ high)) := x.take_eq data
  have run : b = Extraction.run i data a x := s.extract_append i xs x data
  by_cases plausible : low ≤ v ∧ v ≤ high
  · have after : b = { a with
        slots := a.slots.set x.slot { value := BitVec.ofInt 32 v, validity := .valid, source := some i }
        stored := if x.slot ∈ a.stored then a.stored else a.stored ++ [x.slot] } := by
      simp [run, Extraction.run, take, plausible]
    refine ⟨fun j hj => ?_, fun _ => ⟨?_, ?_, ?_, ?_⟩, fun h => absurd plausible h⟩
    · simp only [after, Fin.getElem_fin]
      exact Vector.getElem_set_ne _ _ fun e => hj (Fin.ext e.symm)
    · simp [after]
    · simp only [after]
      split <;> simp_all
    · rw [after]
    · rw [after]
  · have after : b = { a with
        slots := a.slots.set x.slot { a.slots[x.slot] with validity := .stale, source := some i }
        lost := if a.slots[x.slot].validity = .valid then a.lost ++ [x.slot] else a.lost
        implausible := true } := by
      simp [run, Extraction.run, take, plausible]
    refine ⟨fun j hj => ?_, fun h => absurd h plausible, fun _ => ⟨?_, ?_, ?_, ?_⟩⟩
    · simp only [after, Fin.getElem_fin]
      exact Vector.getElem_set_ne _ _ fun e => hj (Fin.ext e.symm)
    · simp [after]
    · rw [after]
    · rw [after]
    · simp only [after]
      split <;> simp_all

/-! ## Fields of the data -/

/-- A field's bits are those of the data from its start on (R4). -/
theorem testBit_fieldNat (data : List Byte) (s w i : Nat) :
    (fieldNat data s w).testBit i = (decide (i < w) && (leNat data).testBit (s + i)) := by
  rw [fieldNat, Nat.testBit_mod_two_pow, Nat.testBit_div_two_pow, Nat.add_comm]

theorem leNat_lt_two_pow (data : List Byte) : leNat data < 2 ^ (8 * data.length) := by
  rw [pow_mul]
  exact leNat_lt data

@[simp] theorem length_setField (data : List Byte) (s w v : Nat) : (setField data s w v).length = data.length := by
  simp [setField]

/-- The bits of the data with a field replaced: the field's own from its new value, every other as it was (R15, R16). -/
theorem testBit_leNat_setField {data : List Byte} {s w : Nat} (h : s + w ≤ 8 * data.length) (v i : Nat) :
    (leNat (setField data s w v)).testBit i =
      if s ≤ i ∧ i < s + w then v.testBit (i - s) else (leNat data).testBit i := by
  have low : leNat data % 2 ^ s < 2 ^ s := Nat.mod_lt _ (Nat.two_pow_pos s)
  have mid : leNat data % 2 ^ s + 2 ^ s * (v % 2 ^ w) < 2 ^ (s + w) := by
    have hv : v % 2 ^ w + 1 ≤ 2 ^ w := Nat.mod_lt _ (Nat.two_pow_pos w)
    calc leNat data % 2 ^ s + 2 ^ s * (v % 2 ^ w) < 2 ^ s * (v % 2 ^ w + 1) := by rw [mul_add, mul_one]; omega
      _ ≤ 2 ^ s * 2 ^ w := Nat.mul_le_mul_left _ hv
      _ = 2 ^ (s + w) := (pow_add 2 s w).symm
  have outside : 8 * data.length ≤ i → (leNat data).testBit i = false := fun hi =>
    Nat.testBit_lt_two_pow (lt_of_lt_of_le (leNat_lt_two_pow data) (Nat.pow_le_pow_right two_pos hi))
  rw [setField, leNat_leBytes, show (256 : Nat) ^ data.length = 2 ^ (8 * data.length) from (pow_mul 2 8 _).symm,
    Nat.testBit_mod_two_pow, add_comm _ (2 ^ (s + w) * _), Nat.testBit_two_pow_mul_add _ mid,
    add_comm _ (2 ^ s * _), Nat.testBit_two_pow_mul_add _ low, Nat.testBit_mod_two_pow, Nat.testBit_mod_two_pow,
    Nat.testBit_div_two_pow]
  by_cases hlow : i < s
  · have : i < 8 * data.length := by omega
    simp [hlow, this, show i < s + w by omega, show ¬ s ≤ i by omega]
  · by_cases hmid : i < s + w
    · have : i < 8 * data.length := by omega
      simp [hlow, hmid, this, show s ≤ i by omega, show i - s < w by omega]
    · by_cases hi : i < 8 * data.length
      · simp [hmid, hi, show i - (s + w) + (s + w) = i by omega]
      · simp [hmid, hi, outside (by omega)]

/-- A replaced field reads as its new value (R15, R16). -/
theorem fieldNat_setField {data : List Byte} {s w : Nat} (h : s + w ≤ 8 * data.length) (v : Nat) :
    fieldNat (setField data s w v) s w = v % 2 ^ w := by
  refine Nat.eq_of_testBit_eq fun i => ?_
  rw [testBit_fieldNat, testBit_leNat_setField h, Nat.testBit_mod_two_pow]
  by_cases hi : i < w <;> simp [hi]

/-- A field beside the replaced one is as it was (R15, R16). -/
theorem fieldNat_setField_beside {data : List Byte} {s w : Nat} (h : s + w ≤ 8 * data.length) (v : Nat) {a b : Nat}
    (hb : a + b ≤ s ∨ s + w ≤ a) : fieldNat (setField data s w v) a b = fieldNat data a b := by
  refine Nat.eq_of_testBit_eq fun i => ?_
  rw [testBit_fieldNat, testBit_leNat_setField h, testBit_fieldNat]
  by_cases hi : i < b
  · rw [if_neg (by omega)]
  · simp [hi]

/-! ## The rewrites -/

/-- Settles O19. -/
theorem tractionGate : Obligations.TractionGate := by
  intro s data start width h
  refine ⟨fun he => by simp [State.rewritten, he], fun he => ?_⟩
  have out : (s.rewritten (.gateTraction start width) data).1 = setField data start width 0 := by
    simp [State.rewritten, he]
  rw [out]
  exact ⟨length_setField _ _ _ _, by simp [fieldNat_setField h], fun a w hb => fieldNat_setField_beside h 0 hb⟩

/-- Two's complement of a width, as the bit vectors of that width have it (R10, R15). -/
theorem signedOf_toNat {w : Nat} (x : BitVec w) : signedOf w x.toNat = x.toInt := by
  rw [BitVec.toInt_eq_toNat_cond]
  rfl

/-- A number within a width's range is read back from its field (R15). -/
theorem signedOf_ofInt {w : Nat} {r : Int} (hl : -(2 ^ 13 : Int) ≤ r) (hr : r < 2 ^ 13) (hw : 14 ≤ w) :
    signedOf w (BitVec.ofInt w r).toNat = r := by
  have pow : (2 : Int) ^ 13 ≤ 2 ^ (w - 1) := pow_le_pow_right₀ (by decide) (by omega)
  rw [signedOf_toNat, BitVec.toInt_ofInt]
  refine Int.bmod_eq_of_le_mul_two ?_ ?_
  all_goals
    have double : ((2 ^ w : Nat) : Int) = 2 * 2 ^ (w - 1) := by
      rw [← pow_succ', Nat.sub_add_cancel (by omega)]
      norm_cast
    omega

/-- A schedule reads between its two points, so never below 0 (R67). -/
theorem scheduleAt_nonneg (y : Schedule) (v : Nat) : 0 ≤ scheduleAt y v := by
  simp only [scheduleAt]
  split
  · exact Int.natCast_nonneg _
  · generalize vget y (v / 100) 0 = a
    generalize vget y (v / 100 + 1) 0 = b
    have hd : (0 : Int) ≤ v - 100 * (v / 100 : Nat) ∧ (v : Int) - 100 * (v / 100 : Nat) < 100 := by omega
    generalize (v : Int) - 100 * (v / 100 : Nat) = d at hd
    have lower : -(100 * (a : Int)) ≤ ((b : Int) - a) * d := by nlinarith
    have : -(a : Int) ≤ (((b : Int) - a) * d).tdiv 100 := by
      rw [Int.tdiv_eq_ediv]
      split
      · omega
      · rw [show Int.sign 100 = 1 from rfl]
        omega
    omega

/-- The limiter's result lies within the steer limit (R83, R84). -/
theorem State.limitFront_bounds {s : State} (h : s.AnglesSound) (q : Int) :
    -4551 ≤ s.limitFront q ∧ s.limitFront q ≤ 4551 := by
  have hm : 0 ≤ s.readSchedule .limA1 := scheduleAt_nonneg _ _
  have hr : 0 ≤ s.readSchedule .rateA1 := scheduleAt_nonneg _ _
  simp only [State.limitFront]
  split
  · rename_i p hp
    have := h.front p hp
    simp only [steerLimit, clampSym, clampInt] at *
    omega
  · split
    all_goals
      simp only [steerLimit, clampSym, clampInt] at *
      omega

/-- A CLAMP_FRONT field reads as the limiter's result (R15). -/
theorem State.rewritten_clampFront {s : State} {data : List Byte} {start width : Nat} (hw : 14 ≤ width)
    (hd : start + width ≤ 8 * data.length) (hs : s.AnglesSound) :
    signedOf width (fieldNat (s.rewritten (.clampFront start width) data).1 start width)
      = s.limitFront (signedOf width (fieldNat data start width)) := by
  obtain ⟨hl, hr⟩ := State.limitFront_bounds hs (signedOf width (fieldNat data start width))
  simp only [State.rewritten]
  rw [fieldNat_setField hd, Nat.mod_eq_of_lt (BitVec.isLt _), signedOf_ofInt (by omega) (by omega) hw]

end Sys2Proof.Machine
end

section
/-! Events taken in a free order, cycle marks and what they leave of the store, the path and the slots, and what an accepted
arrival hands on. -/

namespace Sys2Proof.Machine

/-! ## Events one after another -/

/-- Events taken one after another, each with the count of order choices that it finds. -/
def State.run {α : Type} (take : State → α → State) (s : State) (order : List (α × Nat)) : State :=
  order.foldl (fun u x => take { u with orderCount := x.2 } x.1) s

theorem State.Takes.eq_run {α : Type} {take : State → α → State} {s t : State} {es : List α} (h : s.Takes take es t) :
    ∃ order, (order.map Prod.fst).Perm es ∧ t = s.run take order := h

/-- What every event of a list keeps, whatever the count of order choices, is kept by a run of such events. -/
theorem State.run_induction {α : Type} {P : State → Prop} {take : State → α → State} {es : List α}
    (draw : ∀ t n, P t → P { t with orderCount := n }) (keep : ∀ e ∈ es, ∀ t, P t → P (take t e)) {s : State}
    {order : List (α × Nat)} (h : ∀ x ∈ order, x.1 ∈ es) (hs : P s) : P (s.run take order) := by
  induction order generalizing s with
  | nil => exact hs
  | cons x order ih =>
    exact ih (fun y hy => h y (List.mem_cons_of_mem _ hy)) (keep _ (h x List.mem_cons_self) _ (draw _ _ hs))

theorem State.Takes.induction {α : Type} {P : State → Prop} {take : State → α → State} {es : List α} {s t : State}
    (h : s.Takes take es t) (draw : ∀ t n, P t → P { t with orderCount := n })
    (keep : ∀ e ∈ es, ∀ t, P t → P (take t e)) (hs : P s) : P t := by
  obtain ⟨order, perm, rfl⟩ := h.eq_run
  exact State.run_induction draw keep (fun x hx => perm.mem_iff.mp (List.mem_map_of_mem hx)) hs

/-- One event among others, taken once: the run before it, the event, and the run after it. -/
theorem State.Takes.around {α : Type} {take : State → α → State} {es rest : List α} {e : α} {s t : State}
    (h : s.Takes take es t) (hp : es.Perm (e :: rest)) :
    ∃ before after n, (∀ x ∈ before, x.1 ∈ rest) ∧ (∀ x ∈ after, x.1 ∈ rest)
      ∧ t = (take { s.run take before with orderCount := n } e).run take after := by
  obtain ⟨order, perm, rfl⟩ := h.eq_run
  have all := perm.trans hp
  obtain ⟨⟨e', n⟩, he, rfl⟩ := List.mem_map.mp (all.mem_iff.mpr List.mem_cons_self)
  obtain ⟨before, after, rfl⟩ := List.append_of_mem he
  rw [List.map_append, List.map_cons] at all
  have others := (List.perm_middle.symm.trans all).cons_inv
  refine ⟨before, after, n, fun x hx => ?_, fun x hx => ?_, by simp [State.run, List.foldl_append]⟩
  · exact others.mem_iff.mp (List.mem_append_left _ (List.mem_map_of_mem hx))
  · exact others.mem_iff.mp (List.mem_append_right _ (List.mem_map_of_mem hx))

theorem State.orderCount_changes (s : State) (n : Nat) :
    State.ChangesOnly [.orderCount] s { s with orderCount := n } := by
  intro b hb
  cases b <;> first | rfl | exact absurd (by decide) hb

theorem State.run_changes {α : Type} {bs : List Block} {take : State → α → State} {es : List α}
    (ho : Block.orderCount ∈ bs) (keep : ∀ e ∈ es, ∀ t, State.ChangesOnly bs t (take t e)) (s : State)
    {order : List (α × Nat)} (h : ∀ x ∈ order, x.1 ∈ es) : State.ChangesOnly bs s (s.run take order) :=
  State.run_induction (P := State.ChangesOnly bs s)
    (fun t n ht => ht.trans ((t.orderCount_changes n).mono (by simpa using ho)))
    (fun e he t ht => ht.trans (keep e he t)) h (.refl bs s)

theorem State.Takes.changes {α : Type} {bs : List Block} {take : State → α → State} {es : List α} {s t : State}
    (h : s.Takes take es t) (ho : Block.orderCount ∈ bs) (keep : ∀ e ∈ es, ∀ t, State.ChangesOnly bs t (take t e)) :
    State.ChangesOnly bs s t := by
  obtain ⟨order, perm, rfl⟩ := h.eq_run
  exact State.run_changes ho keep s fun x hx => perm.mem_iff.mp (List.mem_map_of_mem hx)

/-- What deliveries other than a cycle mark leave as it stands: the node number, the frame path, the slots, the tables, the
agent and the queue of commands. -/
theorem State.run_deliver_changes {ds : List Delivery} (hd : .sync ∉ ds) (s : State) {order : List (Delivery × Nat)}
    (h : ∀ x ∈ order, x.1 ∈ ds) :
    State.ChangesOnly [.ports, .board, .track, .steering, .joints, .brakes, .levels, .kneel, .doors, .echoes, .orderCount]
      s (s.run State.deliver order) :=
  State.run_changes (by decide) (fun d hm t => (t.deliver_changes fun e => hd (e ▸ hm)).mono (by decide)) s h

/-! ## The table store at a mark -/

/-- The verdict on a pending set at a mark, `still` saying whether the vehicle is stationary (R179, R180). -/
def TableStore.verdict (ts : TableStore) (still : Bool) : MarkVerdict :=
  if ts.hold || noTables ts.waiting then .leave
  else if holdsMotion ts.waiting && decide (ts.partState = .run) && !still then .refuse
  else .apply

/-- The store after a mark (R180, R183). -/
def TableStore.mark (ts : TableStore) (still : Bool) : TableStore :=
  match ts.verdict still with
  | .leave => ts
  | .refuse => ts.refuse
  | .apply => ts.apply

theorem State.markVerdict_eq (s : State) : s.markVerdict = s.tables.verdict s.stationary := rfl

/-- A mark makes of the store what the verdict says; no block writes to it. -/
theorem State.storeMark_tables (s : State) : s.storeMark.1.tables = s.tables.mark s.stationary := by
  cases hv : s.tables.verdict s.stationary with
  | leave => simp only [State.storeMark, TableStore.mark, State.markVerdict_eq, hv]
  | refuse => simp only [State.storeMark, TableStore.mark, State.markVerdict_eq, hv]
  | apply =>
    simp only [State.storeMark, TableStore.mark, State.markVerdict_eq, hv]
    exact (State.applicationEffects_changes _ _ _).get .tables

theorem State.cycleMark_tables (s : State) (b : Bool) : (s.cycleMark b).tables = s.tables.mark s.stationary := by
  simp only [State.cycleMark]
  rw [← State.storeMark_tables]
  split
  · exact (State.takeAll_changes (bs := [.ports, .path, .board, .steering, .joints, .brakes, .levels, .kneel, .echoes,
      .orderCount]) _ (by decide) fun a _ t => (t.markAction_changes a).mono (by decide)).get .tables
  · rfl

theorem holdsMotion_iff (set : PerTable Bool) :
    holdsMotion set = true ↔ ∃ n, set.get n = true ∧ n.isMotion = true := by
  simp only [holdsMotion, List.any_eq_true, Bool.and_eq_true]
  exact ⟨fun ⟨n, _, h⟩ => ⟨n, h⟩, fun ⟨n, h⟩ => ⟨n, PerTable.mem_all n, h⟩⟩

theorem not_noTables_iff (set : PerTable Bool) : noTables set = false ↔ ∃ n, set.get n = true := by
  rw [← Bool.not_eq_true, noTables_iff]
  simp

theorem TableStore.verdict_eq_leave {ts : TableStore} {still : Bool} :
    ts.verdict still = .leave ↔ ts.hold = true ∨ ∀ n, ts.waiting.get n = false := by
  rw [← noTables_iff]
  simp only [TableStore.verdict]
  split
  · simp_all
  · split <;> simp_all

theorem TableStore.verdict_eq_refuse {ts : TableStore} {still : Bool} :
    ts.verdict still = .refuse ↔ ts.hold = false ∧ (∃ n, ts.waiting.get n = true ∧ n.isMotion = true)
      ∧ ts.partState = .run ∧ still = false := by
  rw [← holdsMotion_iff]
  have some : holdsMotion ts.waiting = true → noTables ts.waiting = false := fun h =>
    (not_noTables_iff _).mpr (((holdsMotion_iff _).mp h).imp fun _ h => h.1)
  simp only [TableStore.verdict]
  split
  · rename_i h
    rcases Bool.or_eq_true_iff.mp h with h | h
    · simp [h]
    · simpa using fun _ hm => absurd (some hm) (by simp [h])
  · split <;> simp_all

theorem TableStore.verdict_eq_apply {ts : TableStore} {still : Bool} :
    ts.verdict still = .apply ↔ ts.hold = false ∧ (∃ n, ts.waiting.get n = true)
      ∧ ¬((∃ n, ts.waiting.get n = true ∧ n.isMotion = true) ∧ ts.partState = .run ∧ still = false) := by
  rw [← holdsMotion_iff, ← not_noTables_iff]
  simp only [TableStore.verdict]
  split
  · rename_i h
    rcases Bool.or_eq_true_iff.mp h with h | h <;> simp [h]
  · split <;> simp_all

/-- The store after a mark, as R179, R180 and R183 say. -/
theorem TableStore.marked_mark (ts : TableStore) (still : Bool) : ts.Marked still (ts.mark still) where
  left h := by simp only [TableStore.mark, TableStore.verdict_eq_leave.mpr h]
  refused hh hm hr hs := by
    simp only [TableStore.mark, TableStore.verdict_eq_refuse.mpr ⟨hh, hm, hr, hs⟩, TableStore.refuse]
  applied hh hw hn := by
    simp only [TableStore.mark, TableStore.verdict_eq_apply.mpr ⟨hh, hw, hn⟩, TableStore.apply, TableStore.prospect]
    exact ⟨trivial, trivial, trivial, hh, fun n => by simp [raiseEpochs], trivial, trivial⟩

/-- RUN is not left at a mark (R183). -/
theorem TableStore.mark_run {ts : TableStore} (h : ts.partState = .run) (still : Bool) :
    (ts.mark still).partState = .run := by
  unfold TableStore.mark
  split
  · exact h
  · exact h
  · simp [TableStore.apply, h]

/-- Active copies change only by an application, and then to the prospect (R180). -/
theorem TableStore.mark_active (ts : TableStore) (still : Bool) :
    (ts.mark still).active = ts.active
      ∨ (ts.hold = false ∧ (ts.mark still).active = ts.prospect
          ∧ (ts.partState = .run → still = false → ∀ n, ts.waiting.get n = true → n.isMotion = false)) := by
  cases h : ts.verdict still with
  | leave => exact .inl (by simp only [TableStore.mark, h])
  | refuse => exact .inl (by simp only [TableStore.mark, h, TableStore.refuse])
  | apply =>
    obtain ⟨hh, -, hn⟩ := TableStore.verdict_eq_apply.mp h
    refine .inr ⟨hh, by simp only [TableStore.mark, h]; rfl, fun hr hs n hw => ?_⟩
    by_contra hm
    exact hn ⟨⟨n, hw, by simpa using hm⟩, hr, hs⟩

/-- A prospect that replaces no motion table keeps the four motion tables. -/
theorem TableStore.prospect_motionKept {ts : TableStore} (h : ∀ n, ts.waiting.get n = true → n.isMotion = false) :
    ts.prospect.fit = ts.active.fit ∧ ts.prospect.schedule = ts.active.schedule ∧ ts.prospect.axle = ts.active.axle
      ∧ ts.prospect.constants = ts.active.constants := by
  have kept : ∀ n : TableName, n.isMotion = true → ts.waiting.get n = false := fun n hn => by
    by_contra hw
    simp [h n (by simpa using hw)] at hn
  have hf : ts.waiting.fit = false := kept .fit rfl
  have hs : ts.waiting.schedule = false := kept .schedule rfl
  have ha : ts.waiting.axle = false := kept .axle rfl
  have hc : ts.waiting.constants = false := kept .constants rfl
  simp [TableStore.prospect, copyTables, hf, hs, ha, hc]

/-! ## The path and the slots at a mark -/

/-- The effects of an application before those of the FIT (R181). -/
def State.beforeFit (s : State) (old : ActiveTables) (set : PerTable Bool) : State :=
  ((((s.doIf set.door State.doorsApplied).doIf set.corner State.cornerApplied).doIf set.constants State.replaceLimits).doIf
    (holdsMotion set) State.clearLastAngles).doIf (set.constants || set.axle) fun s => s.trackApplied old

theorem State.applicationEffects_eq (s : State) (old : ActiveTables) (set : PerTable Bool) :
    s.applicationEffects old set
      = ((s.beforeFit old set).doIf set.fit State.fitApplied).doIf set.corner State.kneelCornerApplied := rfl

theorem State.beforeFit_changes (s : State) (old : ActiveTables) (set : PerTable Bool) :
    State.ChangesOnly [.steering, .board, .levels, .doors, .track] s (s.beforeFit old set) := by
  simp only [State.beforeFit]
  refine .trans (.trans (.trans (.trans (State.doIf_changes _ _ fun t => ?_) (State.doIf_changes _ _ fun t => ?_))
    (State.doIf_changes _ _ fun t => ?_)) (State.doIf_changes _ _ fun t => ?_)) (State.doIf_changes _ _ fun t => ?_)
  · exact t.doorsApplied_changes.mono (by decide)
  · exact t.cornerApplied_changes.mono (by decide)
  · exact t.replaceLimits_changes.mono (by decide)
  · exact t.clearLastAngles_changes.mono (by decide)
  · exact (t.trackApplied_changes old).mono (by decide)

theorem State.kneelCornerApplied_changes (s : State) : State.ChangesOnly [.levels, .board] s s.kneelCornerApplied :=
  s.kerbRequest_changes _

/-- Without a FIT an application leaves the slots, the frame path, the ports and the echo records too. -/
theorem State.applicationEffects_changes_of_noFit (s : State) (old : ActiveTables) {set : PerTable Bool}
    (h : set.fit = false) :
    State.ChangesOnly [.steering, .board, .levels, .doors, .track] s (s.applicationEffects old set) := by
  rw [State.applicationEffects_eq, h]
  exact (s.beforeFit_changes old set).trans
    (State.doIf_changes _ _ fun t => t.kneelCornerApplied_changes.mono (by decide))

/-- Whether a mark applies a FIT: it is pending, no hold flag stands, and the vehicle is stationary or the part
CONFIGURING (R179, R180). -/
theorem State.wouldApplyFit_iff (s : State) :
    s.wouldApplyFit = true ↔
      s.tables.hold = false ∧ s.tables.waiting.fit = true ∧ (s.inRun = false ∨ s.stationary = true) := by
  rw [State.wouldApplyFit, Bool.and_eq_true, decide_eq_true_iff, State.markVerdict_eq, TableStore.verdict_eq_apply]
  constructor
  · rintro ⟨⟨hh, -, hn⟩, hf⟩
    refine ⟨hh, hf, ?_⟩
    by_contra hc
    rw [not_or, Bool.not_eq_false, Bool.not_eq_true] at hc
    exact hn ⟨⟨.fit, hf, rfl⟩, by simpa [State.inRun] using hc.1, hc.2⟩
  · rintro ⟨hh, hf, hs⟩
    refine ⟨⟨hh, ⟨.fit, hf⟩, ?_⟩, hf⟩
    rintro ⟨-, hr, hn⟩
    simp [State.inRun, hr, hn] at hs

theorem State.storeMark_changes_of_noFit {s : State} (h : s.wouldApplyFit = false) :
    State.ChangesOnly [.steering, .board, .levels, .doors, .track, .tables] s s.storeMark.1 := by
  have tables : ∀ ts, State.ChangesOnly [.steering, .board, .levels, .doors, .track, .tables] s { s with tables := ts } := by
    intro ts b hb
    cases b <;> first | rfl | exact absurd (by decide) hb
  simp only [State.wouldApplyFit, Bool.and_eq_false_iff, decide_eq_false_iff_not] at h
  simp only [State.storeMark]
  split
  · exact .refl _ _
  · exact tables _
  · rename_i hv
    exact (tables _).trans ((State.applicationEffects_changes_of_noFit _ _ (h.resolve_left (· hv))).mono (by decide))

/-- The report of a mark says that a FIT was applied exactly where that is so. -/
theorem State.storeMark_applied_fit (s : State) : s.storeMark.2.applied.fit = s.wouldApplyFit := by
  simp only [State.storeMark, State.wouldApplyFit]
  split <;> simp_all [PerTable.const, PerTable.ofFn]

/-- The actions of a mark in RUN are each taken once; in CONFIGURING there are none (R56, R183). -/
theorem State.cycleMark_takes (s : State) (b : Bool) :
    (s.storeMark.1.inRun = true →
        s.storeMark.1.Takes State.markAction (markActions s.storeMark.2 b) (s.cycleMark b))
      ∧ (s.storeMark.1.inRun = false → s.cycleMark b = s.storeMark.1) := by
  refine ⟨fun h => ?_, fun h => ?_⟩
  · simp only [State.cycleMark, h, if_true]
    exact State.takeAll_takes _ _ _
  · simp [State.cycleMark, h]

/-- The one action that touches the frame path is the cycle mark source's own. -/
theorem State.markAction_path (s : State) {a : MarkAction} (h : a ≠ .followSync) : (s.markAction a).path = s.path := by
  cases a with
  | chassis => exact s.offerChassis_changes.get .path
  | steering => exact s.steerMark_changes.get .path
  | joints => exact s.jointMark_changes.get .path
  | brakes => exact s.brakeMark_changes.get .path
  | kneel b => exact (s.kneelMark_changes b).get .path
  | followSync => exact absurd rfl h

theorem State.followSync_path (s : State) :
    s.followSync.path = { s.path with cycle := { sync := .followingSync, timer := none, syncPosted := false } } := by
  simp only [State.followSync]
  split <;> rfl

/-- The actions but for the cycle mark source's. -/
def blockActions (report : MarkReport) : List MarkAction :=
  [.chassis, .steering, .joints, .brakes]
    ++ if report.applied.corner || report.enteredRun then [.kneel report.enteredRun] else []

theorem markActions_eq (report : MarkReport) (b : Bool) :
    markActions report b = blockActions report ++ if b && !report.applied.fit then [.followSync] else [] := rfl

theorem followSync_not_mem_blockActions (report : MarkReport) : MarkAction.followSync ∉ blockActions report := by
  unfold blockActions
  split <;> simp

/-- The frame path after a mark: as the table store leaves it, and following SYNC from a SYNC mark in FREE_RUN that applies
no FIT (R22, R23, R24). -/
theorem State.cycleMark_path (s : State) (b : Bool) : (s.cycleMark b).path =
    if s.storeMark.1.inRun && b && !s.wouldApplyFit then
      { s.storeMark.1.path with cycle := { sync := .followingSync, timer := none, syncPosted := false } }
    else s.storeMark.1.path := by
  obtain ⟨takes, idle⟩ := s.cycleMark_takes b
  have blocks : ∀ (u : State) {order : List (MarkAction × Nat)},
      (∀ x ∈ order, x.1 ∈ blockActions s.storeMark.2) → (u.run State.markAction order).path = u.path := fun u _ h =>
    State.run_induction (P := fun t => t.path = u.path) (fun _ _ ht => ht)
      (fun a ha t ht => (t.markAction_path fun e => followSync_not_mem_blockActions _ (e ▸ ha)).trans ht) h rfl
  cases hr : s.storeMark.1.inRun with
  | false => simp [idle hr]
  | true =>
    have takes := takes hr
    rw [markActions_eq, State.storeMark_applied_fit] at takes
    cases hb : b && !s.wouldApplyFit with
    | false =>
      simp only [hb, Bool.false_eq_true, if_false, List.append_nil] at takes
      obtain ⟨order, perm, ht⟩ := takes.eq_run
      rw [if_neg (by rw [Bool.true_and, hb]; decide), ht]
      exact blocks _ fun x hx => perm.mem_iff.mp (List.mem_map_of_mem hx)
    | true =>
      simp only [hb, if_true] at takes
      obtain ⟨before, after, n, hbefore, hafter, ht⟩ := takes.around (List.perm_append_singleton _ _)
      rw [if_pos (by rw [Bool.true_and, hb]), ht, blocks _ hafter]
      show (State.followSync _).path = _
      rw [State.followSync_path]
      show ({ (State.run _ _ before).path with cycle := _ } : FramePath) = _
      rw [blocks _ hbefore]

/-- The slots after a mark are as the table store leaves them. -/
theorem State.cycleMark_slots (s : State) (b : Bool) : (s.cycleMark b).slots = s.storeMark.1.slots := by
  obtain ⟨takes, idle⟩ := s.cycleMark_takes b
  cases hr : s.storeMark.1.inRun with
  | false => rw [idle hr]
  | true =>
    exact ((takes hr).changes (bs := [.ports, .path, .board, .steering, .joints, .brakes, .levels, .kneel, .echoes,
      .orderCount]) (by decide) fun a _ t => (t.markAction_changes a).mono (by decide)).get .slots

theorem State.inRun_eq (s : State) : s.inRun = true ↔ s.tables.partState = .run := by
  simp [State.inRun]

/-- A mark in RUN leaves the part in RUN (R183). -/
theorem State.storeMark_inRun {s : State} (h : s.inRun = true) : s.storeMark.1.inRun = true := by
  rw [State.inRun_eq] at h ⊢
  rw [State.storeMark_tables]
  exact TableStore.mark_run h _

end Sys2Proof.Machine
end

section
/-! What an accepted arrival leaves before it hands anything on, what it hands on, and the mark of a SYNC arrival among it. -/

namespace Sys2Proof.Machine

/-! ## What an arrival hands on -/

/-- The deliveries of an accepted arrival: its trigger, unless a value was implausible, the notices of the slots stored and
the loss notices (R11, R31). -/
def State.deliveries (s : State) (m : Matched) (f : Frame) : List Delivery :=
  let x := s.extract m.place m.extractors f.data
  (if x.implausible then [] else s.triggerDeliveries m.trigger) ++ x.stored.flatMap s.slotNotices
    ++ (x.lost.filterMap lossOf).map .loss

theorem State.slotNotices_congr {s t : State} (h : t.tables = s.tables) : t.slotNotices = s.slotNotices := by
  funext i
  simp only [State.slotNotices, State.echoSpec_congr h]

theorem State.triggerDeliveries_congr {s t : State} (h : t.tables = s.tables) :
    t.triggerDeliveries = s.triggerDeliveries := by
  have kerb : t.carriesKerb = s.carriesKerb := by
    funext a
    simp only [State.carriesKerb, State.cornerParams_congr h]
  funext r
  cases r <;> simp only [State.triggerDeliveries, kerb]

theorem State.sync_not_mem_triggerDeliveries (s : State) (r : Trigger) : Delivery.sync ∉ s.triggerDeliveries r := by
  cases r with
  | levelAxle a =>
    simp only [State.triggerDeliveries]
    split <;> simp
  | _ => simp [State.triggerDeliveries]

theorem State.sync_not_mem_slotNotices (s : State) (i : SlotId) : Delivery.sync ∉ s.slotNotices i := by
  simp [State.slotNotices]

/-- The mark of a SYNC arrival is none of the deliveries beside it. -/
theorem State.sync_not_mem_deliveries (s : State) (m : Matched) (f : Frame) : Delivery.sync ∉ s.deliveries m f := by
  simp only [State.deliveries, List.mem_append, List.mem_flatMap, List.mem_map, reduceCtorEq, and_false, exists_false, or_false]
  rintro (h | ⟨i, -, h⟩)
  · split at h
    · exact absurd h List.not_mem_nil
    · exact s.sync_not_mem_triggerDeliveries _ h
  · exact s.sync_not_mem_slotNotices _ h

/-! ## What an arrival leaves before it hands anything on -/

/-- The state in which an accepted arrival's rewrite and notices see its slots (R10). -/
def State.seeing (s : State) (m : Matched) (f : Frame) : State :=
  { s with slots := (s.extract m.place m.extractors f.data).slots }

/-- The frame that an accepted arrival forwards (R14 to R16). -/
def State.forwarded (s : State) (m : Matched) (f : Frame) : Frame :=
  { f with data := ((s.seeing m f).rewritten m.rewrite f.data).1 }

/-- The state `u` in which an accepted arrival hands on its deliveries: slots, record and faults stored, and the frame
forwarded (R9, R10, R12, R14, R85). -/
structure State.Arrived (s : State) (p : Port) (f : Frame) (m : Matched) (u : State) : Prop where
  frame : u = { s.seeing m f with
    path := u.path, ports := u.ports, steering := { s.steering with limiter := u.steering.limiter } }
  cycle : u.path.cycle = s.path.cycle
  entries : u.path.entries = s.path.entries.set m.place {
    counter := if (s.extract m.place m.extractors f.data).implausible then none
      else m.entry.counter.map fun start => BitVec.ofNat 4 (fieldNat f.data start 4)
    watch := if m.entry.watch = 0 then s.path.entries[m.place].watch else some m.entry.watch }
  plausibility : u.path.faults.plausibility
    = (s.path.faults.plausibility || (s.extract m.place m.extractors f.data).implausible)
  jumped : ∀ start r, m.entry.counter = some start → s.path.entries[m.place].counter = some r →
    u.path.faults.counterJump
      = (s.path.faults.counterJump || decide (BitVec.ofNat 4 (fieldNat f.data start 4) ≠ r + 1))
  unjumped : m.entry.counter = none ∨ s.path.entries[m.place].counter = none →
    u.path.faults.counterJump = s.path.faults.counterJump
  forwards : m.entry.forward = true → s.neverForwarded f.id = false →
    s.Offered p.other .ordinary [s.forwarded m f] u s.path.faults.egressDrop u.path.faults.egressDrop
      ∧ u.steering.limiter =
        if ((s.ports.get p.other).admission .ordinary [s.forwarded m f]).isSome then
          ((s.seeing m f).rewritten m.rewrite f.data).2.or s.steering.limiter
        else s.steering.limiter
  kept : m.entry.forward = false ∨ s.neverForwarded f.id = true →
    u.ports = s.ports ∧ u.steering = s.steering ∧ u.path.faults.egressDrop = s.path.faults.egressDrop

/-- A forwarding with its rewrite: the frame offered to the other port, EGRESS_DROP where it is refused, and the limiter's
record where it is admitted with a result (R14, R15, R85). -/
theorem State.forwardRewritten_eq (s : State) (p : Port) (f : Frame) (rw : Rewrite) : s.forwardRewritten p f rw =
    match (s.ports.get p.other).admission .ordinary [{ f with data := (s.rewritten rw f.data).1 }] with
    | some y => { s with
        ports := s.ports.set p.other y
        steering := { s.steering with limiter := (s.rewritten rw f.data).2.or s.steering.limiter } }
    | none => s.latchPath fun x => { x with egressDrop := true } := by
  simp only [State.forwardRewritten, State.offerSet]
  cases (s.ports.get p.other).admission .ordinary [{ f with data := (s.rewritten rw f.data).1 }] with
  | none => rfl
  | some y => cases (s.rewritten rw f.data).2 <;> rfl

/-- An accepted arrival with its slots, its record and its faults stored, before it is forwarded; `jump` says whether its
counter jumped (R9, R10, R12). -/
def State.storedArrival (s : State) (f : Frame) (m : Matched) (jump : Bool) : State :=
  let u := { s.seeing m f with path := { s.path with
    entries := s.path.entries.set m.place {
      counter := if (s.extract m.place m.extractors f.data).implausible then none
        else m.entry.counter.map fun start => BitVec.ofNat 4 (fieldNat f.data start 4)
      watch := if m.entry.watch = 0 then s.path.entries[m.place].watch else some m.entry.watch }
    faults := { s.path.faults with counterJump := s.path.faults.counterJump || jump } } }
  if (s.extract m.place m.extractors f.data).implausible then u.latchPath fun x => { x with plausibility := true } else u

theorem State.storedArrival_eq (s : State) (f : Frame) (m : Matched) (jump : Bool) : s.storedArrival f m jump =
    { s.seeing m f with path := { s.path with
      entries := (s.storedArrival f m jump).path.entries
      faults := { s.path.faults with
        counterJump := s.path.faults.counterJump || jump
        plausibility := s.path.faults.plausibility || (s.extract m.place m.extractors f.data).implausible } } } := by
  simp only [State.storedArrival]
  cases (s.extract m.place m.extractors f.data).implausible <;> simp [State.latchPath]

theorem State.storedArrival_entries (s : State) (f : Frame) (m : Matched) (jump : Bool) :
    (s.storedArrival f m jump).path.entries = s.path.entries.set m.place {
      counter := if (s.extract m.place m.extractors f.data).implausible then none
        else m.entry.counter.map fun start => BitVec.ofNat 4 (fieldNat f.data start 4)
      watch := if m.entry.watch = 0 then s.path.entries[m.place].watch else some m.entry.watch } := by
  simp only [State.storedArrival]
  split <;> rfl

/-- The state in which the arrival hands on its deliveries. -/
def State.arrived (s : State) (p : Port) (f : Frame) (m : Matched) (jump : Bool) : State :=
  if m.entry.forward && !s.neverForwarded f.id then (s.storedArrival f m jump).forwardRewritten p f m.rewrite
  else s.storedArrival f m jump

theorem State.forwardRewritten_tables (s : State) (p : Port) (f : Frame) (rw : Rewrite) :
    (s.forwardRewritten p f rw).tables = s.tables := by
  rw [State.forwardRewritten_eq]
  split <;> rfl

theorem State.arrived_tables (s : State) (p : Port) (f : Frame) (m : Matched) (jump : Bool) :
    (s.arrived p f m jump).tables = s.tables := by
  have stored : (s.storedArrival f m jump).tables = s.tables := by
    rw [State.storedArrival_eq]
    rfl
  unfold State.arrived
  split
  · rw [State.forwardRewritten_tables, stored]
  · exact stored

/-- An arrival is stored, forwarded and then handed on. -/
theorem State.accept_eq (s : State) (p : Port) (f : Frame) (m : Matched) (jump : Bool) :
    (s.latchPath fun x => { x with counterJump := x.counterJump || jump }).accept p f m
        (m.entry.counter.map fun start => BitVec.ofNat 4 (fieldNat f.data start 4))
      = (s.arrived p f m jump).handOn (decide (m.cls = .sync)) (s.deliveries m f) := by
  have tables := s.arrived_tables p f m jump
  rw [State.deliveries, ← State.triggerDeliveries_congr tables, ← State.slotNotices_congr tables]
  rfl

theorem State.Accepts.arrived {s : State} {p : Port} {f : Frame} {m : Matched} (h : s.Accepts p f m) :
    ∃ u, s.Arrived p f m u ∧ s.frameArrival p f = u.handOn (decide (m.cls = .sync)) (s.deliveries m f) := by
  obtain ⟨jump, ht, hjump, hno⟩ := h.frameArrival
  refine ⟨s.arrived p f m jump, ?_, ht.trans (s.accept_eq p f m jump)⟩
  have stored := s.storedArrival_eq f m jump
  have entries := s.storedArrival_entries f m jump
  have jumped : ∀ start r, m.entry.counter = some start → s.path.entries[m.place].counter = some r →
      (s.path.faults.counterJump || jump)
        = (s.path.faults.counterJump || decide (BitVec.ofNat 4 (fieldNat f.data start 4) ≠ r + 1)) :=
    fun start r hs hr => by rw [hjump start r hs hr]
  have unjumped : m.entry.counter = none ∨ s.path.entries[m.place].counter = none →
      (s.path.faults.counterJump || jump) = s.path.faults.counterJump := fun h => by rw [hno h, Bool.or_false]
  by_cases fw : m.entry.forward = true ∧ s.neverForwarded f.id = false
  · have arrived : s.arrived p f m jump = (s.storedArrival f m jump).forwardRewritten p f m.rewrite := by
      simp [State.arrived, fw.1, fw.2]
    rw [arrived, State.forwardRewritten_eq]
    generalize (s.storedArrival f m jump).path.entries = es at stored entries
    rw [stored]
    have notKept : ¬(m.entry.forward = false ∨ s.neverForwarded f.id = true) := by simp [fw.1, fw.2]
    split
    · rename_i y hy
      have ha : (s.ports.get p.other).admission .ordinary [s.forwarded m f] = some y := hy
      refine ⟨rfl, rfl, entries, rfl, jumped, unjumped, fun _ _ => ⟨?_, ?_⟩, fun h => absurd h notKept⟩
      · unfold State.Offered
        rw [ha]
        exact ⟨rfl, rfl⟩
      · simp only [ha]
        rfl
    · rename_i hy
      have ha : (s.ports.get p.other).admission .ordinary [s.forwarded m f] = none := hy
      refine ⟨rfl, rfl, entries, rfl, jumped, unjumped, fun _ _ => ⟨?_, ?_⟩, fun h => absurd h notKept⟩
      · unfold State.Offered
        rw [ha]
        exact ⟨rfl, rfl⟩
      · simp only [ha]
        rfl
  · have arrived : s.arrived p f m jump = s.storedArrival f m jump := by
      unfold State.arrived
      rw [if_neg (by simpa using fw)]
    rw [arrived]
    generalize (s.storedArrival f m jump).path.entries = es at stored entries
    rw [stored]
    exact ⟨rfl, rfl, entries, rfl, jumped, unjumped, fun h1 h2 => absurd ⟨h1, h2⟩ fw, fun _ => ⟨rfl, rfl, rfl⟩⟩

/-! ## Handing on -/

theorem State.Arrived.tables {s u : State} {p : Port} {f : Frame} {m : Matched} (h : s.Arrived p f m u) :
    u.tables = s.tables := by
  rw [h.frame]
  rfl

theorem State.Arrived.slots {s u : State} {p : Port} {f : Frame} {m : Matched} (h : s.Arrived p f m u) :
    u.slots = (s.extract m.place m.extractors f.data).slots := by
  rw [h.frame]
  rfl

/-- The mark of a SYNC arrival in RUN applies a FIT where one is pending, no hold flag stands and the vehicle is stationary by
the arrival's own slots (R179, R180). -/
theorem State.Arrived.wouldApplyFit {s u : State} {p : Port} {f : Frame} {m : Matched} (h : s.Arrived p f m u)
    (hr : s.inRun = true) : u.wouldApplyFit = true ↔
      s.tables.hold = false ∧ s.tables.waiting.fit = true ∧ (s.seeing m f).stationary = true := by
  have still : u.stationary = (s.seeing m f).stationary := State.stationary_congr h.slots
  rw [State.wouldApplyFit_iff, h.tables, State.inRun_congr h.tables, hr, still]
  simp

theorem State.handOn_takes (u : State) (ds : List Delivery) :
    u.Takes State.deliver ds (u.handOn false ds)
      ∧ (u.wouldApplyFit = false → u.Takes State.deliver (ds ++ [.sync]) (u.handOn true ds))
      ∧ (u.wouldApplyFit = true → ∃ v, u.Takes State.deliver ds v ∧ u.handOn true ds = v.syncArrival) := by
  refine ⟨u.takeAll_takes _ _, fun h => ?_, fun h => ⟨_, u.takeAll_takes _ _, ?_⟩⟩
  · simp only [State.handOn, h]
    exact u.takeAll_takes _ _
  · simp only [State.handOn, h, if_true]

/-- A SYNC arrival's mark among its other deliveries: those before it, the mark, and those after it, none where a FIT is
applied (R11, R24; log entry 5). -/
theorem State.handOn_sync (u : State) (ds : List Delivery) :
    ∃ before after n, (∀ x ∈ before, x.1 ∈ ds) ∧ (∀ x ∈ after, x.1 ∈ ds) ∧ (u.wouldApplyFit = true → after = [])
      ∧ u.handOn true ds = (State.syncArrival { u.run State.deliver before with orderCount := n }).run State.deliver after := by
  obtain ⟨-, unapplied, applied⟩ := u.handOn_takes ds
  cases h : u.wouldApplyFit with
  | false =>
    obtain ⟨before, after, n, hb, ha, ht⟩ := (unapplied h).around (List.perm_append_singleton _ _)
    exact ⟨before, after, n, hb, ha, nofun, ht⟩
  | true =>
    obtain ⟨v, hv, ht⟩ := applied h
    obtain ⟨order, perm, rfl⟩ := hv.eq_run
    exact ⟨order, [], (u.run State.deliver order).orderCount, fun x hx => perm.mem_iff.mp (List.mem_map_of_mem hx), nofun,
      fun _ => rfl, ht⟩

/-- An accepted SYNC arrival: what it leaves before it hands anything on, the deliveries before its mark, the mark, and the
deliveries after it. -/
theorem State.Accepts.syncArrival {s : State} {p : Port} {f : Frame} {m : Matched} (h : s.Accepts p f m)
    (hs : m.cls = .sync) :
    ∃ u before after n, s.Arrived p f m u ∧ (∀ x ∈ before, x.1 ∈ s.deliveries m f) ∧ (∀ x ∈ after, x.1 ∈ s.deliveries m f)
      ∧ (u.wouldApplyFit = true → after = [])
      ∧ s.frameArrival p f
        = (State.syncArrival { u.run State.deliver before with orderCount := n }).run State.deliver after := by
  obtain ⟨u, hu, ht⟩ := h.arrived
  obtain ⟨before, after, n, hb, ha, he, hh⟩ := u.handOn_sync (s.deliveries m f)
  rw [hs, decide_eq_true rfl, hh] at ht
  exact ⟨u, before, after, n, hu, hb, ha, he, ht⟩

end Sys2Proof.Machine
end

section
/-! Who may change the active tables and the cycle mark source. -/

namespace Sys2Proof.Machine

/-! ## The FIT's own effects -/

/-- An application of the FIT before its loss notices (R24, R30, R165, R166). -/
def State.fitCleared (s : State) : State :=
  let u := { s with
    slots := Vector.replicate 64 .reset
    path := { s.path with
      entries := Vector.replicate 96 .reset
      cycle := { sync := .freeRun, timer := some s.cyclePeriod, syncPosted := false } }
    steering := { s.steering with limiter := none }
    echoes := { s.echoes with records := PerEcho.const .reset } }
  (if s.path.cycle.syncPosted then u.withdrawLimit .sync else u).clearRings

theorem State.fitApplied_eq (s : State) : s.fitApplied = s.fitCleared.takeLosses true s.validSlots := rfl

/-- What the FIT's application leaves before its loss notices. -/
theorem State.fitCleared_eq (s : State) : s.fitCleared = { s with
    slots := Vector.replicate 64 .reset
    path := { s.path with
      entries := Vector.replicate 96 .reset
      cycle := { sync := .freeRun, timer := some s.cyclePeriod, syncPosted := false } }
    steering := { s.steering with limiter := none }
    echoes := { s.echoes with records := PerEcho.const .reset }
    levels := s.clearRings.levels
    board := { s.board with limits := { s.board.limits with
      sync := if s.path.cycle.syncPosted then none else s.board.limits.sync } } } := by
  simp only [State.fitCleared]
  split <;> rfl

theorem State.cyclePeriod_congr {s t : State} (h : t.tables = s.tables) : t.cyclePeriod = s.cyclePeriod := by
  simp only [State.cyclePeriod, State.inRun_congr h, State.paramNat_congr h]

/-- The state after a mark that applies the pending set. -/
theorem State.storeMark_of_apply {s : State} (h : s.markVerdict = .apply) : s.storeMark.1 =
    State.applicationEffects { s with tables := s.tables.apply } s.tables.active s.tables.waiting := by
  simp only [State.storeMark, h]

/-- The slots and the frame path as an application of the FIT leaves them (R24, R30). -/
theorem State.storeMark_fit {s : State} (h : s.wouldApplyFit = true) :
    s.storeMark.1.slots = Vector.replicate 64 .reset ∧ s.storeMark.1.path = { s.path with
      entries := Vector.replicate 96 .reset
      cycle := { sync := .freeRun, timer := some s.storeMark.1.cyclePeriod, syncPosted := false } } := by
  simp only [State.wouldApplyFit, Bool.and_eq_true, decide_eq_true_eq] at h
  obtain ⟨hv, hf⟩ := h
  rw [State.storeMark_of_apply hv, State.applicationEffects_eq, hf]
  set w := State.beforeFit { s with tables := s.tables.apply } s.tables.active s.tables.waiting with hw
  have before := State.beforeFit_changes { s with tables := s.tables.apply } s.tables.active s.tables.waiting
  rw [← hw] at before
  have after : State.ChangesOnly [.ports, .board, .levels, .doors, .orderCount] w.fitCleared
      ((w.doIf true State.fitApplied).doIf s.tables.waiting.corner State.kneelCornerApplied) :=
    .trans (by rw [State.doIf, if_pos rfl, State.fitApplied_eq]; exact (State.takeLosses_changes _ _ _).mono (by decide))
      (State.doIf_changes _ _ fun t => t.kneelCornerApplied_changes.mono (by decide))
  have period := State.cyclePeriod_congr (after.get .tables)
  have path : w.path = s.path := before.get .path
  rw [after.get .slots, after.get .path, period, State.fitCleared_eq]
  exact ⟨rfl, by rw [path]; rfl⟩

/-- The cycle mark source after the table store's part of a mark (R24). -/
theorem State.storeMark_cycle (s : State) : s.storeMark.1.path.cycle =
    if s.wouldApplyFit then { sync := .freeRun, timer := some s.storeMark.1.cyclePeriod, syncPosted := false }
    else s.path.cycle := by
  cases h : s.wouldApplyFit with
  | true => rw [(State.storeMark_fit h).2, if_pos rfl]
  | false =>
    have path : s.storeMark.1.path = s.path := (State.storeMark_changes_of_noFit h).get .path
    rw [path, if_neg Bool.false_ne_true]

/-! ## Watches -/

/-- The expiry of a watch before its loss notices (R13, R23). -/
def State.unwatched (s : State) (i : Fin 96) : State :=
  let u := ({ s with slots := vmap (fun x : SignalSlot => x.silence i) s.slots }).setEntry i .reset
  match s.entryClass i.val with
  | none => u
  | some cls =>
    let t := u.latchPath fun f => f.latchLost cls
    if cls = ArrivalClass.sync then t.syncLost else t

theorem State.watchExpiry_of_idle {s : State} {i : Fin 96} (h : s.path.entries[i].watch = none) : s.watchExpiry i = s := by
  rw [State.watchExpiry, if_pos h]

theorem State.watchExpiry_of_running {s : State} {i : Fin 96} (h : s.path.entries[i].watch ≠ none) :
    s.watchExpiry i = (s.unwatched i).takeLosses false (s.fedSlots i) := by
  rw [State.watchExpiry, if_neg h]
  rfl

/-- What is changed before the loss notices: the slots that the entry fed, its record, the faults and, at a SYNC entry that is
followed, the cycle mark source and SYNC's limit (R13, R23). -/
theorem State.unwatched_eq (s : State) (i : Fin 96) : s.unwatched i = { s with
    slots := vmap (fun x : SignalSlot => x.silence i) s.slots
    path := (s.unwatched i).path
    board := { s.board with limits := { s.board.limits with
      sync := if s.entryClass i = some .sync ∧ s.path.cycle.sync = .followingSync then some (s.paramNat .limitSync)
        else s.board.limits.sync } } } := by
  cases hc : s.entryClass i with
  | none => simp [State.unwatched, hc, State.setEntry]
  | some cls =>
    by_cases hs : cls = .sync
    · cases hf : s.path.cycle.sync with
      | freeRun => simp [State.unwatched, hc, hs, State.syncLost, hf, State.setEntry, State.latchPath]
      | followingSync =>
        simp [State.unwatched, hc, hs, State.syncLost, hf, State.setEntry, State.latchPath, State.postLimit]
        rfl
    · simp [State.unwatched, hc, hs, State.setEntry, State.latchPath]

theorem State.unwatched_entries (s : State) (i : Fin 96) :
    (s.unwatched i).path.entries = s.path.entries.set i .reset := by
  cases hc : s.entryClass i with
  | none => simp [State.unwatched, hc]
  | some cls =>
    by_cases hs : cls = .sync
    · cases hf : s.path.cycle.sync <;> simp [State.unwatched, hc, hs, State.syncLost, hf]
    · simp [State.unwatched, hc, hs]

/-- The cycle mark source at the expiry of a watch (R23). -/
theorem State.unwatched_cycle (s : State) (i : Fin 96) : (s.unwatched i).path.cycle =
    if s.entryClass i = some .sync ∧ s.path.cycle.sync = .followingSync then
      { sync := .freeRun, timer := some (s.paramNat .cyclePeriod), syncPosted := true }
    else s.path.cycle := by
  cases hc : s.entryClass i with
  | none => simp [State.unwatched, hc]
  | some cls =>
    by_cases hs : cls = .sync
    · cases hf : s.path.cycle.sync with
      | freeRun => simp [State.unwatched, hc, hs, State.syncLost, hf]
      | followingSync =>
        simp [State.unwatched, hc, hs, State.syncLost, hf]
        rfl
    · simp [State.unwatched, hc, hs]

/-- The path's faults at the expiry of a watch (R13, R23). -/
theorem State.unwatched_faults (s : State) (i : Fin 96) : (s.unwatched i).path.faults =
    match s.entryClass i with
    | none => s.path.faults
    | some .sync => if s.path.cycle.sync = .followingSync then { s.path.faults with syncLost := true } else s.path.faults
    | some .sample => { s.path.faults with sampleLost := true }
    | some .command => { s.path.faults with commandLost := true }
    | some .status => { s.path.faults with statusLost := true } := by
  cases hc : s.entryClass i with
  | none => simp [State.unwatched, hc]
  | some cls =>
    cases cls with
    | sync =>
      cases hf : s.path.cycle.sync <;> simp [State.unwatched, hc, State.syncLost, hf, PathFaults.latchLost]
    | _ => simp [State.unwatched, hc, PathFaults.latchLost]

/-- The loss notices leave the slots, the frame path and the tables. -/
theorem State.watchExpiry_changes {s : State} {i : Fin 96} (h : s.path.entries[i].watch ≠ none) :
    State.ChangesOnly [.ports, .levels, .doors, .board, .orderCount] (s.unwatched i) (s.watchExpiry i) := by
  rw [State.watchExpiry_of_running h]
  exact State.takeLosses_changes _ _ _

theorem State.watchExpiry_tables (s : State) (i : Fin 96) : (s.watchExpiry i).tables = s.tables := by
  by_cases h : s.path.entries[i].watch = none
  · rw [State.watchExpiry_of_idle h]
  · have tables : (s.unwatched i).tables = s.tables := by
      rw [State.unwatched_eq]
    rw [(State.watchExpiry_changes h).get .tables, tables]

/-! ## Which commands can touch the tables and the cycle mark source -/

theorem State.place_of_matchedAt {s : State} {i : Fin 96} {m : Matched} (h : s.matchedAt i = some m) : m.place = i := by
  unfold State.matchedAt at h
  split at h
  · cases h
  · split at h <;> cases h
    rfl

/-- A matched arrival is discarded with its fault, or accepted (R8, R9). -/
theorem State.Matches.accepted_or {s : State} {p : Port} {f : Frame} {m : Matched} (h : s.Matches p f m) :
    s.Accepts p f m ∨ ∃ g, s.frameArrival p f = s.latchPath g := by
  by_cases hs : m.tooShort f.data.length
  · refine .inr ⟨fun x => { x with shortFrame := true }, h.frameArrival.trans ?_⟩
    rw [Matched.tooShort_iff] at hs
    simp only [State.matched, if_pos hs]
  · by_cases hr : ∀ start, m.entry.counter = some start →
        s.path.entries[m.place].counter ≠ some (BitVec.ofNat 4 (fieldNat f.data start 4))
    · exact .inl ⟨h, hs, hr⟩
    · push Not at hr
      obtain ⟨start, hc, hr⟩ := hr
      refine .inr ⟨fun x => { x with counterRepeat := true }, h.frameArrival.trans ?_⟩
      rw [Matched.tooShort_iff] at hs
      simp only [State.matched, if_neg hs, hc, counterVerdict, hr, if_true]

/-- An unmatched arrival changes the ports or the fault set of the path (R7). -/
theorem State.unmatched_keeps (s : State) (p : Port) (f : Frame) :
    (s.unmatched p f).path.cycle = s.path.cycle ∧ (s.unmatched p f).tables = s.tables := by
  have forward : (s.forward .d f).path.cycle = s.path.cycle ∧ (s.forward .d f).tables = s.tables := by
    unfold State.forward
    split
    · rename_i h
      rw [State.offerSet_frame h]
      exact ⟨rfl, rfl⟩
    · exact ⟨rfl, rfl⟩
  cases p with
  | u => exact ⟨rfl, rfl⟩
  | d =>
    simp only [State.unmatched]
    split
    · exact forward
    · exact ⟨rfl, rfl⟩

/-- The deliveries of an arrival that is no SYNC arrival leave the frame path and the tables (R11, R23). -/
theorem State.Accepts.keeps {s : State} {p : Port} {f : Frame} {m : Matched} (h : s.Accepts p f m) (hs : m.cls ≠ .sync) :
    (s.frameArrival p f).path.cycle = s.path.cycle ∧ (s.frameArrival p f).tables = s.tables := by
  obtain ⟨u, hu, ht⟩ := h.arrived
  rw [decide_eq_false hs] at ht
  obtain ⟨order, perm, he⟩ := (u.handOn_takes _).1.eq_run
  have kept := u.run_deliver_changes (s.sync_not_mem_deliveries m f)
    fun x (hx : x ∈ order) => perm.mem_iff.mp (List.mem_map_of_mem hx)
  rw [ht, he]
  have path : (u.run State.deliver order).path = u.path := kept.get .path
  have tables : (u.run State.deliver order).tables = u.tables := kept.get .tables
  exact ⟨by rw [path, hu.cycle], by rw [tables, hu.tables]⟩

/-- What the arrival of a frame can do to the tables and the cycle mark source. -/
theorem State.frameArrival_cases (s : State) (p : Port) (f : Frame) :
    s.frameArrival p f = s.takeRequest (requestOfData f.data) ∨ (∃ m, s.Accepts p f m ∧ m.cls = .sync)
      ∨ (s.frameArrival p f).path.cycle = s.path.cycle ∧ (s.frameArrival p f).tables = s.tables := by
  cases hl : (s.ports.get p).link with
  | busOff => exact .inr (.inr (by simp only [State.frameArrival, hl]; exact ⟨trivial, trivial⟩))
  | active =>
    cases hm : s.isManagement p f.id with
    | true => exact .inl (by simp [State.frameArrival, hl, hm])
    | false =>
      have arrival := State.frameArrival_of_active hl hm
      cases hr : s.inRun with
      | false =>
        have discarded : s.frameArrival p f = s := by simp [arrival, State.classify, hr]
        exact .inr (.inr ⟨by rw [discarded], by rw [discarded]⟩)
      | true =>
        cases hp : (s.matchEntry p f.id).bind s.matchedAt with
        | none =>
          have unmatched : s.frameArrival p f = s.unmatched p f := by simp [arrival, State.classify, hr, hp]
          exact .inr (.inr (unmatched ▸ s.unmatched_keeps p f))
        | some m =>
          obtain ⟨i, hi, he⟩ := Option.bind_eq_some_iff.mp hp
          obtain rfl := State.place_of_matchedAt he
          have matched : s.Matches p f m := ⟨hr, hl, hm, hi, he⟩
          obtain ha | ⟨g, hg⟩ := matched.accepted_or
          · by_cases hs : m.cls = .sync
            · exact .inr (.inl ⟨m, ha, hs⟩)
            · exact .inr (.inr (ha.keeps hs))
          · exact .inr (.inr (hg ▸ ⟨rfl, rfl⟩))

theorem State.ChangesOnly.cycle_tables {bs : List Block} {s t : State} (h : State.ChangesOnly bs s t)
    (hp : Block.path ∉ bs := by decide) (ht : Block.tables ∉ bs := by decide) :
    t.path.cycle = s.path.cycle ∧ t.tables = s.tables := ⟨congrArg FramePath.cycle (h.get .path hp), h.get .tables ht⟩

/-- What a command can do to the tables and the cycle mark source: nothing, unless it is a reset, a request, the expiry of a
watch or of the cycle timer, or a SYNC arrival. -/
theorem exec_cases {c : Instr} {s t : State} (h : exec c s = .next t) :
    (∃ straps, (c = .powerOn straps ∨ c = .resetLine straps) ∧ t = s.hardReset straps)
      ∨ (∃ i, requestData i ≠ none ∧ t = s.takeRequest i)
      ∨ (∃ p f m, c = .frameArrival p f ∧ t = s.frameArrival p f ∧ s.Accepts p f m ∧ m.cls = .sync)
      ∨ (∃ i, t = s.watchExpiry i) ∨ (c = .cycleTimerExpiry ∧ t = s.cycleExpiry)
      ∨ t.path.cycle = s.path.cycle ∧ t.tables = s.tables := by
  by_cases hi : requestData c = none
  · cases c with
    | powerOn straps => cases h; exact .inl ⟨straps, .inl rfl, rfl⟩
    | resetLine straps => cases h; exact .inl ⟨straps, .inr rfl, rfl⟩
    | frameArrival p f =>
      obtain rfl : s.frameArrival p f = t := Host.Outcome.next.inj h
      obtain hr | ⟨m, ha, hs⟩ | hk := s.frameArrival_cases p f
      · exact .inr (.inl ⟨_, requestData_requestOfData f.data, hr⟩)
      · exact .inr (.inr (.inl ⟨p, f, m, rfl, rfl, ha, hs⟩))
      · exact .inr (.inr (.inr (.inr (.inr hk))))
    | watchExpiry i => cases h; exact .inr (.inr (.inr (.inl ⟨i, rfl⟩)))
    | cycleTimerExpiry => cases h; exact .inr (.inr (.inr (.inr (.inl ⟨rfl, rfl⟩))))
    | busOff p =>
      cases h
      refine .inr (.inr (.inr (.inr (.inr ?_))))
      unfold State.busOff
      split <;> exact ⟨rfl, rfl⟩
    | recovery p =>
      cases h
      refine .inr (.inr (.inr (.inr (.inr ?_))))
      unfold State.recovery
      split <;> exact ⟨rfl, rfl⟩
    | transmitComplete p => cases h; exact .inr (.inr (.inr (.inr (.inr (s.setPort_changes p _).cycle_tables))))
    | echoTimerExpiry k => cases h; exact .inr (.inr (.inr (.inr (.inr (s.echoExpiry_changes k).cycle_tables))))
    | activeSinceExpiry a => cases h; exact .inr (.inr (.inr (.inr (.inr (s.activeSinceExpiry_changes a).cycle_tables))))
    | kneelArmTimerExpiry => cases h; exact .inr (.inr (.inr (.inr (.inr s.kneelArmExpiry_changes.cycle_tables))))
    | kneelDeadlineExpiry => cases h; exact .inr (.inr (.inr (.inr (.inr s.kneelDeadlineExpiry_changes.cycle_tables))))
    | doorArmTimerExpiry d => cases h; exact .inr (.inr (.inr (.inr (.inr (s.doorArmExpiry_changes d).cycle_tables))))
    | lockProofExpiry d => cases h; exact .inr (.inr (.inr (.inr (.inr (s.lockProofExpiry_changes d).cycle_tables))))
    | releaseHoldExpiry d => cases h; exact .inr (.inr (.inr (.inr (.inr (s.releaseHoldExpiry_changes d).cycle_tables))))
    | resetArmTimerExpiry => cases h; exact .inr (.inr (.inr (.inr (.inr s.disarm_changes.cycle_tables))))
    | _ => cases hi
  · rw [exec_request hi] at h
    cases h
    exact .inr (.inl ⟨c, hi, rfl⟩)

/-! ## The marks' part -/

/-- The expiry of the cycle timer leaves the tables as its mark does (R22). -/
theorem State.cycleExpiry_tables (s : State) : s.cycleExpiry.tables = s.tables
    ∨ s.cycleExpiry.tables = s.tables.mark s.stationary := by
  unfold State.cycleExpiry
  split
  · exact .inl rfl
  · split
    · exact .inl rfl
    · exact .inr (s.cycleMark_tables false)

/-- The state in which a SYNC arrival's mark is taken has the tables that the arrival found and the slots that it stored. -/
theorem State.Arrived.before {s u : State} {p : Port} {f : Frame} {m : Matched} (h : s.Arrived p f m u)
    {before : List (Delivery × Nat)} {n : Nat} (hb : ∀ x ∈ before, x.1 ∈ s.deliveries m f) :
    State.ChangesOnly
        [.ports, .board, .track, .steering, .joints, .brakes, .levels, .kneel, .doors, .echoes, .orderCount] u
        { u.run State.deliver before with orderCount := n }
      ∧ ({ u.run State.deliver before with orderCount := n } : State).tables = s.tables
      ∧ ({ u.run State.deliver before with orderCount := n } : State).stationary = (s.seeing m f).stationary := by
  have kept : State.ChangesOnly
      [.ports, .board, .track, .steering, .joints, .brakes, .levels, .kneel, .doors, .echoes, .orderCount] u
      { u.run State.deliver before with orderCount := n } :=
    (u.run_deliver_changes (s.sync_not_mem_deliveries m f) hb).trans ((State.orderCount_changes _ n).mono (by decide))
  have tables : _ = u.tables := kept.get .tables
  have slots : _ = u.slots := kept.get .slots
  exact ⟨kept, tables.trans h.tables, State.stationary_congr (slots.trans h.slots)⟩

/-- The tables after an accepted SYNC arrival are those that its mark leaves (R23, R180). -/
theorem State.Accepts.sync_tables {s : State} {p : Port} {f : Frame} {m : Matched} (h : s.Accepts p f m)
    (hs : m.cls = .sync) : (s.frameArrival p f).tables = s.tables.mark (s.seeing m f).stationary := by
  obtain ⟨u, before, after, n, hu, hb, ha, -, ht⟩ := h.syncArrival hs
  obtain ⟨-, tables, still⟩ := hu.before (n := n) hb
  have kept := State.run_deliver_changes (s.sync_not_mem_deliveries m f)
    (State.syncArrival { u.run State.deliver before with orderCount := n }) ha
  rw [ht, kept.get .tables, State.syncArrival, State.cycleMark_tables, tables, still]

theorem State.Responds.active {s t : State} (h : s.Responds t) :
    t.tables.active = s.tables.active ∧ t.tables.partState = s.tables.partState ∧ t.path.cycle = s.path.cycle := by
  obtain ⟨u, _, _, _, hu, heffect⟩ | rfl := h.cases
  · rw [State.offerSet_frame hu] at heffect
    exact ⟨heffect.active, heffect.partState, heffect.cycle⟩
  · exact ⟨rfl, rfl, rfl⟩

theorem State.resetAnswered_keeps (s : State) (rest : List Byte) :
    (s.resetAnswered rest).tables = s.inBandReset.tables ∧ (s.resetAnswered rest).path = s.inBandReset.path
      ∨ s.resetAnswered rest = s.responseRefused := by
  simp only [State.resetAnswered]
  split
  · rename_i h
    rw [State.offerSet_frame h]
    exact .inl ⟨rfl, rfl⟩
  · exact .inr rfl

/-- A request keeps the active tables and the part state, and the cycle mark source but at an in-band reset, which restarts
it (R22, R184, R197). -/
theorem State.takeRequest_keeps (s : State) {i : Instr} (hi : requestData i ≠ none) :
    (s.takeRequest i).tables.active = s.tables.active ∧ (s.takeRequest i).tables.partState = s.tables.partState
      ∧ ((s.takeRequest i).path.cycle = s.path.cycle ∨ (s.takeRequest i).path.cycle = s.inBandReset.path.cycle) := by
  obtain hr | ⟨rest, -, hr⟩ := s.takeRequest_cases hi
  · obtain ⟨ha, hp, hc⟩ := hr.active
    exact ⟨ha, hp, .inl hc⟩
  · rw [hr]
    obtain ⟨ht, hp⟩ | hk := s.resetAnswered_keeps rest
    · rw [ht, hp]
      exact ⟨TableStore.cancel_active _, TableStore.cancel_partState _, .inr rfl⟩
    · rw [hk]
      exact ⟨rfl, rfl, .inl rfl⟩

/-- A mark that changes the active tables makes the prospect active, no hold flag standing, and in RUN no motion table while
the vehicle moves (R180). -/
theorem TableStore.mark_changed {ts : TableStore} {still : Bool} (h : (ts.mark still).active ≠ ts.active) :
    (ts.mark still).active = ts.prospect ∧ ts.hold = false
      ∧ (ts.partState = .run → still = false →
          (ts.mark still).active.fit = ts.active.fit ∧ (ts.mark still).active.schedule = ts.active.schedule
            ∧ (ts.mark still).active.axle = ts.active.axle ∧ (ts.mark still).active.constants = ts.active.constants) := by
  obtain hk | ⟨hold, hp, hmotion⟩ := ts.mark_active still
  · exact absurd hk h
  · exact ⟨hp, hold, fun hr hs => hp ▸ TableStore.prospect_motionKept (hmotion hr hs)⟩

/-- Settles O26: of all commands only a reset of the whole part and the two kinds of cycle mark touch the active tables. -/
theorem activeTablesChangeOnlyAtMarks : Obligations.ActiveTablesChangeOnlyAtMarks := by
  intro c s t h hne
  obtain ⟨straps, hc, -⟩ | ⟨i, hi, rfl⟩ | ⟨p, f, m, hc, rfl, ha, hs⟩ | ⟨i, rfl⟩ | ⟨hc, rfl⟩ | ⟨-, hk⟩ := exec_cases h
  · exact .inl ⟨straps, hc⟩
  · exact absurd (s.takeRequest_keeps hi).1 hne
  · have tables := ha.sync_tables hs
    rw [tables] at hne ⊢
    obtain ⟨hp, hold, hmotion⟩ := TableStore.mark_changed hne
    exact .inr (.inl ⟨p, f, m, hc, ha, hs, hp, hold, hmotion ((State.inRun_eq s).mp ha.matched.run)⟩)
  · exact absurd (by rw [State.watchExpiry_tables]) hne
  · obtain hk | hm := s.cycleExpiry_tables
    · exact absurd (by rw [hk]) hne
    · rw [hm] at hne ⊢
      obtain ⟨hp, hold, hmotion⟩ := TableStore.mark_changed hne
      exact .inr (.inr ⟨hc, hp, hold, fun hr => hmotion ((State.inRun_eq s).mp hr)⟩)
  · exact absurd (by rw [hk]) hne

end Sys2Proof.Machine
end

section
/-! The cycle mark source in every step, and what an accepted arrival leaves. -/

namespace Sys2Proof.Machine

/-! ## The cycle mark source -/

theorem State.CycleSound.congr {s t : State} (h : s.CycleSound) (hc : t.path.cycle = s.path.cycle)
    (hp : t.tables.partState = s.tables.partState) : t.CycleSound := by
  have run : t.inRun = s.inRun := by rw [State.inRun, State.inRun, hp]
  exact ⟨hc ▸ h.timer, hc ▸ h.posted, hc ▸ run ▸ h.run⟩

/-- A source in FREE_RUN with its timer started is sound in every part state. -/
theorem State.cycleSound_of_freeRun {t : State} {n : Nat} {b : Bool}
    (h : t.path.cycle = { sync := .freeRun, timer := some n, syncPosted := b }) : t.CycleSound where
  timer := by rw [h]; rfl
  posted _ := by rw [h]
  run _ := by rw [h]

theorem State.cycleMark_inRun (s : State) (b : Bool) : (s.cycleMark b).inRun = s.storeMark.1.inRun :=
  State.inRun_congr (by rw [State.cycleMark_tables, State.storeMark_tables])

/-- A mark keeps the source sound (R22 to R24). -/
theorem State.CycleSound.cycleMark {s : State} (h : s.CycleSound) (b : Bool) : (s.cycleMark b).CycleSound := by
  have path := s.cycleMark_path b
  split at path
  · rename_i hb
    simp only [Bool.and_eq_true] at hb
    refine ⟨by rw [path]; rfl, fun hp => (by rw [path] at hp; cases hp), fun hr => ?_⟩
    rw [State.cycleMark_inRun, hb.1.1] at hr
    cases hr
  · have cycle := s.storeMark_cycle
    rw [← path] at cycle
    split at cycle
    · exact State.cycleSound_of_freeRun cycle
    · refine ⟨cycle ▸ h.timer, cycle ▸ h.posted, fun hr => cycle ▸ h.run ?_⟩
      rw [State.cycleMark_inRun] at hr
      by_contra hs
      rw [State.storeMark_inRun (by simpa using hs)] at hr
      cases hr

/-- In RUN a mark in FREE_RUN at which the source is to follow SYNC leaves it so, unless a FIT is applied (R23, R24). -/
theorem State.syncArrival_cycle (s : State) (hr : s.inRun = true) (hf : s.wouldApplyFit = false) :
    s.syncArrival.path.cycle = if s.path.cycle.sync = .freeRun then
      { sync := .followingSync, timer := none, syncPosted := false } else s.path.cycle := by
  have path : s.storeMark.1.path = s.path := (State.storeMark_changes_of_noFit hf).get .path
  rw [State.syncArrival, State.cycleMark_path, State.storeMark_inRun hr, hf, path, State.followsSync]
  cases s.path.cycle.sync <;> rfl

/-- Deliveries beside a mark keep the source. -/
theorem State.CycleSound.run_deliver {s : State} (h : s.CycleSound) {ds : List Delivery} (hd : .sync ∉ ds)
    {order : List (Delivery × Nat)} (ho : ∀ x ∈ order, x.1 ∈ ds) : (s.run State.deliver order).CycleSound := by
  obtain ⟨hc, ht⟩ := (State.run_deliver_changes hd s ho).cycle_tables
  exact h.congr hc (by rw [ht])

/-- In FREE_RUN a mark of the internal timer leaves the source in FREE_RUN (R22). -/
theorem State.cycleMark_free {s : State} (hf : s.path.cycle.sync = .freeRun) :
    (s.cycleMark false).path.cycle.sync = .freeRun := by
  rw [State.cycleMark_path, Bool.and_false, Bool.false_and, if_neg Bool.false_ne_true, State.storeMark_cycle]
  split
  · rfl
  · exact hf

theorem State.CycleSound.cycleExpiry {s : State} (h : s.CycleSound) : s.cycleExpiry.CycleSound := by
  unfold State.cycleExpiry
  split
  · exact h
  · rename_i running
    split
    · rename_i hf
      have idle := h.timer
      rw [hf] at idle
      exact absurd (by simpa using idle) running
    · rename_i hf
      have kept := h.cycleMark false
      have free := State.cycleMark_free hf
      exact ⟨by rw [State.setCycleTimer_path_timer, State.setCycleTimer_path_sync, free]; rfl, kept.posted, fun _ => free⟩

/-- A command keeps the source sound. -/
theorem exec_cycleSound {c : Instr} {s t : State} (hs : s.CycleSound) (h : exec c s = .next t) : t.CycleSound := by
  obtain ⟨straps, -, rfl⟩ | ⟨i, hi, rfl⟩ | ⟨p, f, m, -, rfl, ha, hm⟩ | ⟨i, rfl⟩ | ⟨-, rfl⟩ | ⟨hc, hk⟩ := exec_cases h
  · exact State.reset_cycleSound.congr rfl rfl
  · obtain ⟨-, hp, hc | hc⟩ := s.takeRequest_keeps hi
    · exact hs.congr hc hp
    · exact State.cycleSound_of_freeRun hc
  · obtain ⟨u, before, after, n, hu, hb, hafter, -, ht⟩ := ha.syncArrival hm
    have sound : u.CycleSound := hs.congr hu.cycle (by rw [hu.tables])
    have free := s.sync_not_mem_deliveries m f
    rw [ht]
    exact (((sound.run_deliver free hb).congr (t := { u.run State.deliver before with orderCount := n }) rfl
      rfl).cycleMark _).run_deliver free hafter
  · by_cases hw : s.path.entries[i].watch = none
    · rwa [State.watchExpiry_of_idle hw]
    · have path : (s.watchExpiry i).path = (s.unwatched i).path := (State.watchExpiry_changes hw).get .path
      have cycle := s.unwatched_cycle i
      rw [← path] at cycle
      split at cycle
      · exact State.cycleSound_of_freeRun cycle
      · exact hs.congr cycle (by rw [State.watchExpiry_tables])
  · exact hs.cycleExpiry
  · exact hs.congr hc (by rw [hk])

theorem Timer.isSome_tick (t : Timer) : (Timer.tick t).isSome = t.isSome := by
  cases t <;> rfl

/-- Settles O27: a command keeps the source sound, and a tick of the clock leaves a running timer running. -/
theorem cycleStaysSound : Obligations.CycleStaysSound := by
  intro s t hs h
  obtain rfl | ⟨c, n, rfl⟩ | ⟨c, rest, -, he⟩ := step_cases h
  · exact ⟨(Timer.isSome_tick _).trans hs.timer, hs.posted, hs.run⟩
  · exact hs.congr rfl rfl
  · exact exec_cycleSound (s := { s with pending := rest }) (hs.congr rfl rfl) he

/-! ## What an accepted arrival leaves -/

theorem State.wouldApplyFit_congr {s t : State} (ht : t.tables = s.tables) (hs : t.slots = s.slots) :
    t.wouldApplyFit = s.wouldApplyFit := by
  have verdict : t.markVerdict = s.markVerdict := by
    rw [State.markVerdict_eq, State.markVerdict_eq, ht, State.stationary_congr hs]
  rw [State.wouldApplyFit, State.wouldApplyFit, verdict, ht]

/-- The mark of a SYNC arrival that applies no FIT leaves the slots and, but for the cycle mark source, the frame path. -/
theorem State.syncArrival_keeps {s : State} (h : s.wouldApplyFit = false) :
    s.syncArrival.slots = s.slots ∧ s.syncArrival.path.entries = s.path.entries
      ∧ s.syncArrival.path.faults = s.path.faults := by
  have kept := State.storeMark_changes_of_noFit h
  have slots : s.storeMark.1.slots = s.slots := kept.get .slots
  have path : s.storeMark.1.path = s.path := kept.get .path
  rw [State.syncArrival, State.cycleMark_slots, slots, State.cycleMark_path, path]
  exact ⟨rfl, by split <;> rfl, by split <;> rfl⟩

/-- What an accepted arrival stores stands at its end, unless its own mark applies a FIT. -/
theorem State.Accepts.stored {s : State} {p : Port} {f : Frame} {m : Matched} (h : s.Accepts p f m) :
    ∃ u, s.Arrived p f m u ∧ (s.frameArrival p f).node = s.node ∧ (s.frameArrival p f).agent = s.agent
      ∧ (s.frameArrival p f).pending = s.pending
      ∧ (¬(m.cls = .sync ∧ u.wouldApplyFit = true) → (s.frameArrival p f).slots = u.slots
          ∧ (s.frameArrival p f).path.entries = u.path.entries ∧ (s.frameArrival p f).path.faults = u.path.faults) := by
  have free := s.sync_not_mem_deliveries m f
  by_cases hs : m.cls = .sync
  · obtain ⟨u, before, after, n, hu, hb, ha, -, ht⟩ := h.syncArrival hs
    obtain ⟨first, -, -⟩ := hu.before (n := n) hb
    set v : State := { u.run State.deliver before with orderCount := n }
    have last := v.syncArrival.run_deliver_changes free ha
    have both := (v.cycleMark_changes (!v.followsSync)).trans (last.mono (by decide))
    have all := (first.mono (by decide)).trans both
    rw [ht]
    refine ⟨u, hu, (all.get .node).trans (by rw [hu.frame]; rfl), (all.get .agent).trans (by rw [hu.frame]; rfl),
      (all.get .pending).trans (by rw [hu.frame]; rfl), fun hfit => ?_⟩
    have slots : v.slots = u.slots := first.get .slots
    have path : v.path = u.path := first.get .path
    have tables : v.tables = u.tables := first.get .tables
    have unapplied : v.wouldApplyFit = false := by
      rw [State.wouldApplyFit_congr tables slots]
      simpa [hs] using hfit
    obtain ⟨ks, ke, kf⟩ := v.syncArrival_keeps unapplied
    have path' : (v.syncArrival.run State.deliver after).path = v.syncArrival.path := last.get .path
    rw [last.get .slots, path', ks, ke, kf, slots, path]
    exact ⟨rfl, rfl, rfl⟩
  · obtain ⟨u, hu, ht⟩ := h.arrived
    rw [decide_eq_false hs] at ht
    obtain ⟨order, perm, he⟩ := (u.handOn_takes _).1.eq_run
    have kept := u.run_deliver_changes free fun x (hx : x ∈ order) => perm.mem_iff.mp (List.mem_map_of_mem hx)
    rw [← he, ← ht] at kept
    have path : (s.frameArrival p f).path = u.path := kept.get .path
    exact ⟨u, hu, (kept.get .node).trans (by rw [hu.frame]; rfl), (kept.get .agent).trans (by rw [hu.frame]; rfl),
      (kept.get .pending).trans (by rw [hu.frame]; rfl), fun _ => ⟨kept.get .slots, by rw [path], by rw [path]⟩⟩

/-- Settles O16. -/
theorem acceptedArrival : Obligations.AcceptedArrival := by
  intro p f m s h x hfit c before
  obtain ⟨u, hu, hnode, hagent, hpending, stored⟩ := h.stored
  obtain ⟨slots, entries, faults⟩ := stored fun ⟨hs, hw⟩ =>
    hfit ⟨hs, (hu.wouldApplyFit h.matched.run).mp hw⟩
  refine ⟨s.frameArrival p f, rfl, slots.trans hu.slots, ?_, fun j hj => ?_, ?_, fun v r hv hr => ?_, fun hn => ?_, h.keeps,
    hnode, hagent, hpending⟩
  · rw [entries, hu.entries]
    simp [c, x, before]
  · rw [entries, hu.entries, Fin.getElem_fin]
    exact Vector.getElem_set_ne _ _ fun e => hj (Fin.ext e.symm)
  · rw [faults, hu.plausibility]
  · obtain ⟨start, hstart, rfl⟩ := Option.map_eq_some_iff.mp hv
    rw [faults, hu.jumped start r hstart hr]
  · rw [faults, hu.unjumped (hn.imp_left Option.map_eq_none_iff.mp)]

end Sys2Proof.Machine
end

section
/-! The front-axle limiter at an arrival, and who takes the trigger and the notices of an arrival. -/

namespace Sys2Proof.Machine

/-! ## The limiter's record -/

theorem State.checkCoverages_limiter (s : State) : s.checkCoverages.steering.limiter = s.steering.limiter := by
  have one : ∀ (t : State) r, (t.checkCoverage r).steering.limiter = t.steering.limiter := by
    intro t r
    simp only [State.checkCoverage]
    split <;> rfl
  exact (one _ _).trans (one _ _)

theorem State.odometerTrigger_limiter (s : State) : s.odometerTrigger.steering.limiter = s.steering.limiter := by
  unfold State.odometerTrigger
  split
  · rfl
  · rw [State.checkCoverages_limiter]
    split <;> rfl

theorem State.settleRear_limiter (s : State) (r : Rear) : (s.settleRear r).1.steering.limiter = s.steering.limiter := by
  simp only [State.settleRear]
  repeat' split
  all_goals rfl

theorem State.offerSteer_limiter (s : State) (c3 c4 : SteerCommand) :
    (s.offerSteer c3 c4).steering.limiter = s.steering.limiter := by
  have emitted : ∀ (t : State) r c, (t.steerEmitted r c).steering.limiter = t.steering.limiter := by
    intro t r c
    rw [State.steerEmitted, (State.echoEmission_changes _ _ _).get .steering]
    rfl
  unfold State.offerSteer
  split
  · rename_i h
    rw [emitted, emitted, State.offerSet_frame h]
  · rfl

theorem State.steerTrigger_limiter (s : State) : s.steerTrigger.steering.limiter = s.steering.limiter := by
  simp only [State.steerTrigger]
  rw [State.offerSteer_limiter, State.settleRear_limiter, State.settleRear_limiter]

/-- The steering unit acts at its own two triggers alone (R61, R69). -/
theorem State.deliver_steering (s : State) {d : Delivery} (h : d ≠ .sync) (ho : d ≠ .odometer) (hs : d ≠ .steer) :
    (s.deliver d).steering = s.steering := by
  cases d with
  | odometer => exact absurd rfl ho
  | steer => exact absurd rfl hs
  | joints => exact s.jointTrigger_changes.get .steering
  | brake => exact s.brakeTrigger_changes.get .steering
  | level a => exact (s.levelTrigger_changes a).get .steering
  | kneelLevel => exact s.kneelLevelTrigger_changes.get .steering
  | door d => exact (s.doorTrigger_changes d).get .steering
  | kneel => exact s.kneelTrigger_changes.get .steering
  | traction => exact s.tractionNotice_changes.get .steering
  | levelRequest => exact s.levelRequestNotice_changes.get .steering
  | doorRequest d => exact (s.doorRequest_changes d).get .steering
  | brakeEcho => exact s.recomputeHalt_changes.get .steering
  | echo k => exact (s.echoArrival_changes k).get .steering
  | loss l => exact (s.takeLoss_changes false l).get .steering
  | sync => exact absurd rfl h

/-- The limiter's record is left to forwarding and to applications of the FIT (R85). -/
theorem State.deliver_limiter (s : State) {d : Delivery} (h : d ≠ .sync) :
    (s.deliver d).steering.limiter = s.steering.limiter := by
  by_cases ho : d = .odometer
  · rw [ho]
    simp only [State.deliver, State.odometerTrigger_limiter]
  · by_cases hs : d = .steer
    · rw [hs]
      simp only [State.deliver, State.steerTrigger_limiter]
    · rw [s.deliver_steering h ho hs]

/-- Settles O20: the rewrite's result and its bounds; the record at an arrival is as forwarding leaves it. -/
theorem frontLimiter : Obligations.FrontLimiter := by
  refine ⟨fun s data start width hw hw32 hd hs => ?_, fun p f m s start width h hm hrw => ?_⟩
  · intro q m r out result
    have reads : result = s.limitFront q := State.rewritten_clampFront hw hd hs
    obtain ⟨lower, upper⟩ := State.limitFront_bounds hs q
    refine ⟨length_setField _ _ _ _, reads, by rw [reads]; rfl, reads ▸ lower, reads ▸ upper, fun p hp => ?_, fun hn ha => ?_,
      fun a hn ha => ?_, fun a w hb => fieldNat_setField_beside hd _ hb⟩
    · rw [reads]
      simp only [State.limitFront, hp]
      rfl
    · rw [reads]
      simp only [State.limitFront, hn, ha]
      rfl
    · rw [reads]
      simp only [State.limitFront, hn, ha]
      rfl
  · intro seen result out
    obtain ⟨u, hu, ht⟩ := h.arrived
    rw [decide_eq_false hm] at ht
    have free := s.sync_not_mem_deliveries m f
    obtain ⟨order, perm, he⟩ := (u.handOn_takes _).1.eq_run
    have each : ∀ x ∈ order, x.1 ∈ s.deliveries m f := fun x hx => perm.mem_iff.mp (List.mem_map_of_mem hx)
    have path : (s.frameArrival p f).path = u.path := by
      rw [ht, he]
      exact (u.run_deliver_changes free each).get .path
    have limiter : (s.frameArrival p f).steering.limiter = u.steering.limiter := by
      rw [ht, he]
      exact State.run_induction (P := fun t => t.steering.limiter = u.steering.limiter) (fun _ _ h => h)
        (fun d hd t h => (t.deliver_limiter fun e => free (e ▸ hd)).trans h) each rfl
    have limited : ((s.seeing m f).rewritten m.rewrite f.data).2 = some result := by rw [hrw]; rfl
    refine ⟨s.frameArrival p f, rfl, fun hf hn => ?_, fun hk => ?_⟩
    · obtain ⟨offered, kept⟩ := hu.forwards hf hn
      rw [limited] at kept
      unfold State.Offered at offered
      rw [limiter, path]
      refine ⟨fun y hy => ?_, fun hy => ?_⟩
      · have ha : (s.ports.get p.other).admission .ordinary [s.forwarded m f] = some y := hy
        rw [ha] at kept offered
        exact ⟨kept, offered.2⟩
      · have ha : (s.ports.get p.other).admission .ordinary [s.forwarded m f] = none := hy
        rw [ha] at kept offered
        exact ⟨kept, offered.2⟩
    · obtain ⟨-, steering, drop⟩ := hu.kept hk
      rw [limiter, path, steering]
      exact ⟨rfl, drop⟩

/-! ## The doors beside the one that an event is about -/

/-- Every door but one keeps its record. -/
def State.KeepsDoorsBeside (d : Door) (s t : State) : Prop := ∀ d', d' ≠ d → t.door d' = s.door d'

namespace State.KeepsDoorsBeside

variable {d : Door} {s t u : State}

theorem refl (s : State) : KeepsDoorsBeside d s s := fun _ _ => rfl

theorem trans (h : KeepsDoorsBeside d s t) (h' : KeepsDoorsBeside d t u) : KeepsDoorsBeside d s u :=
  fun d' hd => (h' d' hd).trans (h d' hd)

theorem of_changes {bs : List Block} (h : State.ChangesOnly bs s t) (hb : Block.doors ∉ bs := by decide) :
    KeepsDoorsBeside d s t := fun _ _ => by rw [State.door, State.door, h.get .doors hb]

theorem ite {c : Prop} [Decidable c] (h : KeepsDoorsBeside d s t) (h' : KeepsDoorsBeside d s u) :
    KeepsDoorsBeside d s (if c then t else u) := by
  split
  · exact h
  · exact h'

theorem setDoor (s : State) (r : DoorRecord) : KeepsDoorsBeside d s (s.setDoor d r) :=
  fun _ hd => PerDoor.get_set_of_ne _ _ _ _ hd

theorem latchDoor (s : State) (f : DoorFaults → DoorFaults) : KeepsDoorsBeside d s (s.latchDoor f) := fun _ _ => rfl

theorem latchEvent (s : State) (k : DoorEvent) : KeepsDoorsBeside d s (s.latchEvent d k) := .ite (setDoor _ _) (refl _)

theorem latchEvents (s : State) (ks : List DoorEvent) : KeepsDoorsBeside d s (s.latchEvents d ks) := by
  unfold State.latchEvents
  induction ks generalizing s with
  | nil => exact refl s
  | cons k ks ih => exact (latchEvent s k).trans (ih _)

theorem stepDoor (s : State) (r : DoorRecord) (x : Option DoorStep) : KeepsDoorsBeside d s (s.stepDoor d r x) := by
  unfold State.stepDoor
  split
  · exact setDoor _ _
  · exact .trans ((setDoor _ _).trans (latchEvents _ _)) (.ite (latchDoor _ _) (refl _))

theorem offerDoor (s : State) (c : DoorCommand) : KeepsDoorsBeside d s (s.offerDoor d c) := by
  unfold State.offerDoor
  split
  · rename_i h
    exact (of_changes (State.offerSet_changes h)).trans (setDoor _ _)
  · exact latchDoor _ _

theorem losePosition (s : State) (b : Bool) : KeepsDoorsBeside d s (s.losePosition d b) := by
  simp only [State.losePosition]
  refine .ite (refl s) (.trans (.trans ?_ (of_changes (State.syncReason_changes _ d))) (offerDoor _ _))
  exact .trans (t := if _ then _ else _) (.ite ((setDoor _ _).trans (latchEvent _ _)) (setDoor _ _))
    (.ite (latchDoor _ _) (refl _))

theorem doorTrigger (s : State) : KeepsDoorsBeside d s (s.doorTrigger d) := by
  simp only [State.doorTrigger]
  refine .ite (refl s) ?_
  split
  · exact losePosition _ _
  · refine .trans (.trans (.trans ?_ (of_changes (State.afterTransition_changes _ _ _))) (.ite (latchEvent _ _) (refl _)))
      (offerDoor _ _)
    exact stepDoor _ _ _

end State.KeepsDoorsBeside

/-! ## Slots that an arrival stores or loses -/

/-- Only slots that an extractor names are stored, or leave VALID (R10, R31). -/
theorem State.mem_extract (s : State) (i : Fin 96) (xs : List Extractor) (data : List Byte) (j : SlotId)
    (h : j ∈ (s.extract i xs data).stored ∨ j ∈ (s.extract i xs data).lost) : ∃ x ∈ xs, x.slot = j := by
  induction xs using List.reverseRecOn with
  | nil => simp [State.extract] at h
  | append_singleton xs x ih =>
    by_cases hx : x.slot = j
    · exact ⟨x, by simp, hx⟩
    · have earlier : j ∈ (s.extract i xs data).stored ∨ j ∈ (s.extract i xs data).lost := by
        rw [State.extract_append] at h
        simp only [Extraction.run] at h
        split at h
        · simp only at h
          split at h
          · exact h
          · simpa [Ne.symm hx] using h
        · simp only at h
          split at h
          · simpa [Ne.symm hx] using h
          · exact h
      obtain ⟨y, hy, he⟩ := ih earlier
      exact ⟨y, List.mem_append_left _ hy, he⟩

/-- Where its slots give no notice, an arrival hands on its trigger alone (R11). -/
theorem State.deliveries_of_quiet {s : State} {m : Matched} (f : Frame)
    (h : ∀ x ∈ m.extractors, lossOf x.slot = none ∧ s.slotNotices x.slot = []) :
    s.deliveries m f =
      if (s.extract m.place m.extractors f.data).implausible then [] else s.triggerDeliveries m.trigger := by
  have stored : (s.extract m.place m.extractors f.data).stored.flatMap s.slotNotices = [] := by
    rw [List.flatMap_eq_nil_iff]
    intro j hj
    obtain ⟨x, hx, rfl⟩ := s.mem_extract _ _ _ j (.inl hj)
    exact (h x hx).2
  have lost : (s.extract m.place m.extractors f.data).lost.filterMap lossOf = [] := by
    rw [List.filterMap_eq_nil_iff]
    intro j hj
    obtain ⟨x, hx, rfl⟩ := s.mem_extract _ _ _ j (.inr hj)
    exact (h x hx).1
  simp [State.deliveries, stored, lost]

/-- Two events in a free order come in one of their two orders. -/
theorem State.takeAll_pair {α : Type} (s : State) (take : α → State → State) (a b : α) :
    s.takeAll take [a, b] = take b (take a { s with orderCount := s.orderCount + 1 })
      ∨ s.takeAll take [a, b] = take a (take b { s with orderCount := s.orderCount + 1 }) := by
  have two : Config.pick s.orderCount % 2 = 0 ∨ Config.pick s.orderCount % 2 = 1 := by omega
  rcases two with h | h
  · exact .inl (by simp [State.takeAll, inAnyOrder, State.drawOrder, h])
  · exact .inr (by simp [State.takeAll, inAnyOrder, State.drawOrder, h])

/-! ## Which slots give which notices -/

/-- Where a loss notice comes from (R31). -/
theorem lossOf_eq_some {i : SlotId} {l : Loss} (h : lossOf i = some l) :
    match l with
    | .height c => i = slotHeight c
    | .position d => i = slotDoorPosition d
    | .brakeEcho a => i = slotBrakeEcho a := by
  unfold lossOf at h
  split at h <;> cases h
  · rename_i hf
    have found := List.find?_some hf
    exact (eq_of_beq found).symm
  · rename_i hf
    have found := List.find?_some hf
    exact (eq_of_beq found).symm
  · rename_i hf
    have found := List.find?_some hf
    exact (eq_of_beq found).symm

theorem lossOf_eq_height (i : SlotId) (c : Corner) : lossOf i = some (.height c) ↔ i = slotHeight c := by
  refine ⟨fun h => lossOf_eq_some h, ?_⟩
  rintro rfl
  cases c <;> rfl

theorem lossOf_eq_position (i : SlotId) (d : Door) : lossOf i = some (.position d) ↔ i = slotDoorPosition d := by
  refine ⟨fun h => lossOf_eq_some h, ?_⟩
  rintro rfl
  cases d <;> rfl

theorem lossOf_eq_brakeEcho (i : SlotId) (a : Axle) : lossOf i = some (.brakeEcho a) ↔ i = slotBrakeEcho a := by
  refine ⟨fun h => lossOf_eq_some h, ?_⟩
  rintro rfl
  cases a <;> rfl

/-- The blocks that an arrival with this trigger and without notices may change (R11, R61, R69, R88, R102, R117, R137,
R151). -/
def Trigger.blocks : Trigger → List Block
  | .noTrigger => [.slots, .path, .ports, .steering]
  | .odometer => [.slots, .path, .ports, .steering, .track]
  | .steer => [.slots, .path, .ports, .steering, .joints, .board, .echoes, .orderCount]
  | .brake => [.slots, .path, .ports, .steering, .brakes, .board, .echoes]
  | .levelAxle _ => [.slots, .path, .ports, .steering, .levels, .board, .kneel, .brakes, .orderCount]
  | .door _ => [.slots, .path, .ports, .steering, .doors, .board, .kneel, .levels]
  | .kneel => [.slots, .path, .ports, .steering, .kneel, .board, .levels, .brakes]

theorem Trigger.first_blocks (r : Trigger) : ∀ b ∈ [Block.slots, .path, .ports, .steering], b ∈ r.blocks := by
  cases r <;> simp [Trigger.blocks]

theorem State.triggerDeliveries_changes (s : State) (r : Trigger) :
    State.ChangesOnly r.blocks s (s.takeAll (fun d t => t.deliver d) (s.triggerDeliveries r)) := by
  cases r with
  | noTrigger => exact .refl _ _
  | odometer => exact s.odometerTrigger_changes.mono (by decide)
  | steer =>
    refine s.takeAll_changes (by simp [Trigger.blocks]) fun d hd t => ?_
    simp only [State.triggerDeliveries, List.mem_cons, List.not_mem_nil, or_false] at hd
    rcases hd with rfl | rfl
    · exact t.steerTrigger_changes.mono (by decide)
    · exact t.jointTrigger_changes.mono (by decide)
  | brake => exact s.brakeTrigger_changes.mono (by decide)
  | levelAxle a =>
    refine s.takeAll_changes (by simp [Trigger.blocks]) fun d hd t => ?_
    have taken : d = .level a ∨ d = .kneelLevel := by
      simp only [State.triggerDeliveries, List.mem_cons] at hd
      refine hd.imp_right fun h => ?_
      split at h
      · simpa using h
      · exact absurd h List.not_mem_nil
    rcases taken with rfl | rfl
    · exact (t.levelTrigger_changes a).mono (by simp [Trigger.blocks])
    · exact t.kneelLevelTrigger_changes.mono (by simp [Trigger.blocks])
  | door d => exact (s.doorTrigger_changes d).mono (by simp [Trigger.blocks])
  | kneel => exact s.kneelTrigger_changes.mono (by decide)

/-- What an arrival that is no SYNC arrival does, handed on in a free order. -/
theorem State.Accepts.handed {s : State} {p : Port} {f : Frame} {m : Matched} (h : s.Accepts p f m) (hs : m.cls ≠ .sync) :
    ∃ u, s.Arrived p f m u ∧ s.frameArrival p f = u.takeAll (fun d t => t.deliver d) (s.deliveries m f) := by
  obtain ⟨u, hu, ht⟩ := h.arrived
  rw [decide_eq_false hs] at ht
  exact ⟨u, hu, ht⟩

theorem State.Arrived.changes {s u : State} {p : Port} {f : Frame} {m : Matched} (h : s.Arrived p f m u) :
    State.ChangesOnly [.slots, .path, .ports, .steering] s u := by
  rw [h.frame]
  intro b hb
  cases b <;> first | rfl | exact absurd (by decide) hb

/-- The trigger of an arrival without notices, and what it may change (R11). -/
theorem State.Accepts.trigger_changes {s : State} {p : Port} {f : Frame} {m : Matched} (h : s.Accepts p f m)
    (hs : m.cls ≠ .sync) (hquiet : ∀ x ∈ m.extractors, lossOf x.slot = none ∧ s.slotNotices x.slot = []) :
    State.ChangesOnly m.trigger.blocks s (s.frameArrival p f)
      ∧ ∀ d, m.trigger = .door d → ∀ d', d' ≠ d → (s.frameArrival p f).door d' = s.door d' := by
  obtain ⟨u, hu, ht⟩ := h.handed hs
  have first := hu.changes
  have doors : ∀ d, u.door d = s.door d := fun d => by rw [State.door, State.door, first.get .doors]
  rw [ht, State.deliveries_of_quiet f hquiet, ← State.triggerDeliveries_congr hu.tables]
  split
  · exact ⟨first.mono m.trigger.first_blocks, fun _ _ d' _ => doors d'⟩
  · refine ⟨(first.mono m.trigger.first_blocks).trans (u.triggerDeliveries_changes _), fun d hd d' hne => ?_⟩
    rw [hd]
    exact (State.KeepsDoorsBeside.doorTrigger u d' hne).trans (doors d')

/-- Whether an echo record watches a slot (R166). -/
def State.echoWatches (s : State) (i : SlotId) (k : EchoKind) : Bool :=
  match s.echoSpec k with
  | some e => e.slot == i
  | none => false

theorem State.echoWatches_iff (s : State) (i : SlotId) (k : EchoKind) :
    s.echoWatches i k = true ↔ ∃ e, s.echoSpec k = some e ∧ e.slot = i := by
  unfold State.echoWatches
  split <;> simp_all

theorem State.slotNotices_eq (s : State) (i : SlotId) : s.slotNotices i =
    (if i = slotTractionDemand then [.traction] else []) ++ (if i = slotLevelRequest then [.levelRequest] else [])
      ++ ((PerDoor.all.filter fun d => slotDoorRequest d == i).map .doorRequest)
      ++ ((PerAxle.all.filter fun a => slotBrakeEcho a == i).map fun _ => .brakeEcho)
      ++ ((PerEcho.all.filter (s.echoWatches i)).map .echo) := rfl

/-- The notices that a stored slot gives (R11). -/
theorem State.mem_slotNotices (s : State) (i : SlotId) (d : Delivery) : d ∈ s.slotNotices i ↔
    (i = slotTractionDemand ∧ d = .traction) ∨ (i = slotLevelRequest ∧ d = .levelRequest)
      ∨ (∃ x, slotDoorRequest x = i ∧ .doorRequest x = d) ∨ (∃ a, slotBrakeEcho a = i ∧ .brakeEcho = d)
      ∨ ∃ k, (∃ e, s.echoSpec k = some e ∧ e.slot = i) ∧ .echo k = d := by
  simp only [State.slotNotices_eq, List.mem_append, List.mem_ite_nil_right, List.mem_singleton, List.mem_map, List.mem_filter,
    PerDoor.mem_all, PerAxle.mem_all, PerEcho.mem_all, true_and, beq_iff_eq, or_assoc, State.echoWatches_iff]

/-- Settles O17. -/
theorem arrivalFrames : Obligations.ArrivalFrames := by
  refine ⟨fun p f m s h hs hquiet => ?_, fun p f m s h => ?_, fun s i => ?_⟩
  · obtain ⟨kept, beside⟩ := h.trigger_changes hs hquiet
    refine ⟨s.frameArrival p f, rfl, ?_⟩
    generalize s.frameArrival p f = t at kept beside
    cases hm : m.trigger with
    | door d =>
      rw [hm] at kept
      refine ⟨State.eq_of_same fun b => ?_, beside d hm⟩
      have unnamed := kept b
      cases b <;> first | rfl | exact unnamed (by simp [Trigger.blocks])
    | _ =>
      rw [hm] at kept
      refine State.eq_of_same fun b => ?_
      have unnamed := kept b
      cases b <;> first | rfl | exact unnamed (by simp [Trigger.blocks])
  · intro x seen out trigger notices takers marksFit
    obtain ⟨u, hu, ht⟩ := h.arrived
    have taken : (if x.implausible then [] else s.triggerDeliveries m.trigger) = takers := by
      simp only [takers, trigger]
      split
      · rfl
      · cases m.trigger with
        | levelAxle a =>
          simp only [State.triggerDeliveries]
          split <;> rfl
        | _ => rfl
    have deliveries : s.deliveries m f = takers ++ notices := by
      rw [← taken]
      exact List.append_assoc _ _ _
    obtain ⟨unmarked, among, last⟩ := u.handOn_takes (s.deliveries m f)
    rw [deliveries] at unmarked among last ht
    have count : u.orderCount = s.orderCount := hu.changes.get .orderCount
    have fit : u.wouldApplyFit = true ↔ marksFit := hu.wouldApplyFit h.matched.run
    refine ⟨s.frameArrival p f, u, rfl, hu.frame, fun hrw => ?_, fun hf hn => (hu.forwards hf hn).1, hu.kept, fun hs => ?_,
      fun hs hm => ?_, fun hs hm => ?_, fun hs hn => ?_, fun d hs hn hi => ?_⟩
    · simp [out, hrw, State.rewritten]
    · rw [ht, decide_eq_false hs]
      exact unmarked
    · rw [ht, decide_eq_true hs]
      exact among (by simpa using fun hw => hm (fit.mp hw))
    · rw [ht, decide_eq_true hs]
      exact last (fit.mpr hm)
    · intro v
      rw [decide_eq_false hs, hn, List.append_nil] at ht
      have pair := fun a b => u.takeAll_pair (fun d t => State.deliver t d) a b
      rw [count] at pair
      simp only [takers] at ht
      clear_value trigger
      cases trigger with
      | steer => exact (pair .steer .joints).imp ht.trans ht.trans
      | levelAxle a =>
        by_cases hk : s.carriesKerb a = true
        · simp only [hk, if_true] at ht ⊢
          exact (pair (.level a) .kneelLevel).imp ht.trans ht.trans
        · simp only [if_neg hk] at ht ⊢
          exact ht
      | _ => exact ht
    · have quiet : takers = [] := by
        simp only [takers, trigger]
        rcases hi with hi | hi <;> simp [x, hi]
      rw [ht, decide_eq_false hs, hn, quiet]
      rfl
  · refine ⟨?_, ?_, ?_, ?_, ?_, lossOf_eq_height i, lossOf_eq_position i, lossOf_eq_brakeEcho i,
      ⟨rfl, rfl, fun _ => rfl, rfl, fun _ => rfl, fun _ => rfl, fun _ => rfl, fun _ => rfl⟩, rfl, rfl, rfl, rfl,
      fun _ => rfl, rfl, fun _ => rfl, rfl, rfl⟩
    · simp [State.mem_slotNotices]
    · simp [State.mem_slotNotices]
    · intro d
      simp only [State.mem_slotNotices, reduceCtorEq, and_false, exists_false, or_false, false_or, Delivery.doorRequest.injEq,
        exists_eq_right]
      exact eq_comm
    · simp only [State.mem_slotNotices, reduceCtorEq, and_false, exists_false, or_false, false_or, and_true]
      exact exists_congr fun a => eq_comm
    · simp [State.mem_slotNotices]

end Sys2Proof.Machine
end

section
/-! STATUS. -/

namespace Sys2Proof.Machine

/-! ## Responses that are admitted -/

/-- A request whose response is admitted takes its effect, and leaves the reset-arm record CLEAR (R186, R196). -/
theorem State.Answers.answer {s : State} {data : List Byte} {q : PortState} (h : s.Answers data q) {code tag : Byte}
    {r : Reply} (hd : data = code :: tag :: byte (statusCode r.status) ++ r.payload) (effect : State → State) :
    s.answer code tag r effect = (effect { s with ports := { s.ports with u := q } }).disarm := by
  subst hd
  have admitted : s.ports.u.admission .ordinary [s.responseFrame code tag r] = some q := h
  obtain ⟨y, hy, he⟩ | ⟨hn, -⟩ := s.answer_cases code tag r effect
  · rw [admitted] at hy
    rw [he, Option.some.inj hy]
  · rw [admitted] at hn
    cases hn

/-- A denied request whose response is admitted changes nothing of its own (R186). -/
theorem State.Answers.deny {s : State} {code tag : Byte} {e : Status} {q : PortState}
    (h : s.Answers [code, tag, BitVec.ofNat 8 (statusCode e)] q) : s.deny code tag e = s.answered q :=
  h.answer (r := bareReply e) rfl id

/-! ## Standing conditions -/

/-- A slot is lost where it is STALE, or VALID and not usable (R107). -/
theorem State.lostSlot_iff (s : State) (i : SlotId) : s.lostSlot i = true ↔
    s.slots[i].validity = .stale ∨ (s.slots[i].validity = .valid ∧ s.readInt i = none) := by
  simp only [State.lostSlot, State.readInt, State.readSlot]
  cases s.slots[i].validity <;> simp

/-- Some slot fed last by an entry of a class is STALE (R25). -/
theorem State.staleOfClass_iff (s : State) (cls : ArrivalClass) : s.staleOfClass cls = true ↔
    ∃ (i : SlotId) (e : Fin 96),
      s.slots[i].validity = .stale ∧ s.slots[i].source = some e ∧ s.entryClass e = some cls := by
  have fed : ∀ x : SignalSlot, (decide (x.validity = .stale) && (match x.source with
      | some i => decide (s.entryClass i.val = some cls)
      | none => false)) = true ↔ ∃ e : Fin 96, x.validity = .stale ∧ x.source = some e ∧ s.entryClass e = some cls := by
    intro x
    cases x.source <;> simp
  unfold State.staleOfClass
  rw [List.any_eq_true]
  constructor
  · rintro ⟨x, hx, h⟩
    obtain ⟨i, hi, rfl⟩ := Vector.mem_iff_getElem.mp (Vector.mem_toList_iff.mp hx)
    exact ⟨⟨i, hi⟩, (fed _).mp h⟩
  · rintro ⟨i, h⟩
    exact ⟨s.slots[i], Vector.mem_toList_iff.mpr (Vector.getElem_mem _), (fed _).mpr h⟩

theorem PerDoor.any_iff (g : Door → Bool) : PerDoor.all.any g = true ↔ ∃ d, g d = true := by
  simp [List.any_eq_true, PerDoor.mem_all]

theorem PerCorner.any_iff (g : Corner → Bool) : PerCorner.all.any g = true ↔ ∃ c, g c = true := by
  simp [List.any_eq_true, PerCorner.mem_all]

theorem PerAxle.any_iff (g : Axle → Bool) : PerAxle.all.any g = true ↔ ∃ a, g a = true := by
  simp [List.any_eq_true, PerAxle.mem_all]

/-- A snapshot with a FALLBACK load is held (R114). -/
theorem State.snapshotFallback_iff (s : State) :
    s.snapshotFallback = true ↔ ∃ x, s.brakes.snapshot = some x ∧ x.anyFallback = true := by
  unfold State.snapshotFallback
  split <;> simp_all

/-- Some echo record of the active FIT, of all those of one family, is in DISAGREE (R171). -/
theorem State.anyDisagree_map_iff {α : Type} (s : State) {all : List α} (h : ∀ a, a ∈ all) (kind : α → EchoKind) :
    s.anyDisagree (all.map kind) = true ↔ ∃ a, s.disagrees (kind a) = true := by
  simp only [State.anyDisagree, List.any_map, List.any_eq_true, Function.comp_apply]
  exact ⟨fun ⟨a, _, ha⟩ => ⟨a, ha⟩, fun ⟨a, ha⟩ => ⟨a, h a, ha⟩⟩

/-! ## STATUS -/

theorem statusArgs_cons (tag option : Byte) (more : List Byte) : statusArgs (tag :: option :: more) =
    if 2 ≤ option.toNat then .error .badRequest else .ok (bit option.toNat 0) := by
  simp [statusArgs, reaches, paramByte, u8]

theorem statusArgs_of_short {rest : List Byte} (h : rest.length ≤ 1) : statusArgs rest = .error .badRequest := by
  have short : reaches rest 3 = false := by simpa [reaches] using h
  simp [statusArgs, short]

/-- The report of a STATUS request, fault sets and reason sets as they stand (R42, R189). -/
theorem State.statusReport_eq (s : State) (tag : Byte) :
    [2, tag, 0]
      ++ byte (s.inRun.toNat + 2 * (decide (s.path.cycle.sync = .followingSync)).toNat + 4 * s.tables.hold.toNat)
      ++ byte (tableMask s.tables.waiting) ++ byte (tableMask s.tables.outcome.tables)
      ++ byte (resultCode s.tables.outcome.result) ++ epochBytes s.tables.outcome.epochs
      ++ (s.faultBits.flatMap fun bs => half (bitsNat bs)) = 2 :: tag :: byte (statusCode .done) ++ s.statusFields := by
  have flags : s.inRun.toNat + 2 * (decide (s.path.cycle.sync = .followingSync)).toNat + 4 * s.tables.hold.toNat
      = bitsNat [s.inRun, s.followsSync, s.tables.hold] := by
    simp only [bitsNat, State.followsSync]
    omega
  rw [flags, State.statusFields]
  simp only [List.append_assoc]
  rfl

/-- Settles O55. -/
theorem statusRequest : Obligations.StatusRequest := by
  refine ⟨fun tag option more s q => ?_, fun rest s q hlen h => ?_⟩
  · intro fields report stale
    have hfields : fields = 2 :: tag :: byte (statusCode .done) ++ s.statusFields := s.statusReport_eq tag
    have hreport : report = 2 :: tag :: byte (statusCode .done) ++ s.statusPayload := by
      simp only [report, hfields, State.statusPayload, State.reasonBytes, List.append_assoc]
    have taken : ∀ b, statusArgs (tag :: option :: more) = .ok b → s.Answers report q →
        s.statusRequest (tag :: option :: more) = ((fun t : State => if b then t.clearFaults else t)
          { s with ports := { s.ports with u := q } }).disarm := by
      intro b hb h
      unfold State.statusRequest
      rw [hb]
      exact h.answer hreport _
    refine ⟨⟨?_, ?_⟩, ?_, ?_, ?_⟩
    · simp [hfields, byte]
    · simp [hreport, byte]
    · rintro rfl h
      exact congrArg Host.Outcome.next (taken false (by simp [statusArgs_cons, bit]) h)
    · rintro rfl h
      let w : State := { s with ports := { s.ports with u := q } }
      refine ⟨w.clearFaults.disarm, congrArg Host.Outcome.next (taken true (by simp [statusArgs_cons, bit]) h), rfl, rfl,
        Bool.and_eq_true_iff.trans (and_congr_right' (w.staleOfClass_iff _)),
        Bool.and_eq_true_iff.trans (and_congr_right' (w.staleOfClass_iff _)),
        Bool.and_eq_true_iff.trans (and_congr_right' (w.staleOfClass_iff _)), rfl, rfl, rfl, ?_, rfl, rfl, rfl,
        Bool.and_eq_true_iff.trans (and_congr_right' ?_), Bool.and_eq_true_iff.trans (and_congr_right' (w.lostSlot_iff _)), rfl,
        Bool.and_eq_true_iff.trans (and_congr_right' ((PerCorner.any_iff _).trans (exists_congr fun c => decide_eq_true_iff))),
        Bool.and_eq_true_iff.trans (and_congr_right' (PerCorner.any_iff _)), rfl, rfl, rfl, rfl, rfl, rfl,
        Bool.and_eq_true_iff.trans (and_congr_right' ?_), Bool.and_eq_true_iff.trans (and_congr_right' ?_),
        Bool.and_eq_true_iff.trans (and_congr_right' ?_), Bool.and_eq_true_iff.trans (and_congr_right' ?_)⟩
      · show (s.steering.faults.limitEscape && (decide (s.steering.rear.a3.mode = .locked)
          || (decide (s.steering.rear.a4.mode = .locked) || false))) = _
        rw [Bool.or_false, Bool.decide_or]
      · rw [Bool.or_eq_true]
        exact or_congr ((PerAxle.any_iff _).trans (exists_congr fun a => decide_eq_true_iff)) w.snapshotFallback_iff
      · rw [PerDoor.any_iff]
        show (∃ d, (s.fitted d && decide ((s.door d).state = .open)
          && decide ((s.door d).reversals = (s.doorParams d).maxReversals)) = true) ↔ _
        simp only [Bool.and_eq_true, decide_eq_true_eq, and_assoc]
      · rw [PerDoor.any_iff]
        show (∃ d, (s.fitted d && !s.present (slotDoorPosition d)) = true) ↔ _
        simp [State.present_iff_readInt]
      · exact w.anyDisagree_map_iff PerRear.mem_all .steer
      · exact w.anyDisagree_map_iff PerAxle.mem_all .brake
    · intro ho h
      refine congrArg Host.Outcome.next ?_
      unfold State.statusRequest
      rw [statusArgs_cons, if_pos ho]
      exact h.deny
  · refine congrArg Host.Outcome.next ?_
    unfold State.statusRequest
    rw [statusArgs_of_short hlen]
    exact h.deny

end Sys2Proof.Machine
end

section
/-! Which kinds of the speed-limit map each operation may change, and what may change HALT_CONFIRMED (3.4, 3.5). -/

namespace Sys2Proof.Machine

/-- The speed-limit map is kept but for the named kinds. -/
def State.LimitsKept (ks : List LimitKind) (s t : State) : Prop := ∀ k, k ∉ ks → t.board.limits.get k = s.board.limits.get k

/-- HALT_CONFIRMED is kept, and the speed-limit map but for the named kinds. -/
structure State.BoardKept (ks : List LimitKind) (s t : State) : Prop where
  limits : s.LimitsKept ks t
  confirmed : t.board.haltConfirmed = s.board.haltConfirmed

theorem State.LimitsKept.trans {ks : List LimitKind} {s t u : State} (h : State.LimitsKept ks s t)
    (h' : State.LimitsKept ks t u) : State.LimitsKept ks s u := fun k hk => (h' k hk).trans (h k hk)

theorem State.LimitsKept.mono {ks ks' : List LimitKind} {s t : State} (h : State.LimitsKept ks s t)
    (hs : ∀ k ∈ ks, k ∈ ks' := by decide) : State.LimitsKept ks' s t := fun k hk => h k fun hm => hk (hs k hm)

/-- The kinds that the blocks post beside the steering unit and the cycle mark source. -/
def blockLimits : List LimitKind := [.jointJ1, .jointJ2, .brake, .levelHigh, .levelSlow, .kneelFault]

namespace State.BoardKept

variable {ks : List LimitKind} {s t u : State}

theorem of_board (h : t.board = s.board) : BoardKept ks s t := ⟨fun _ _ => by rw [h], by rw [h]⟩

theorem refl (s : State) : BoardKept ks s s := of_board rfl

theorem trans (h : BoardKept ks s t) (h' : BoardKept ks t u) : BoardKept ks s u :=
  ⟨h.limits.trans h'.limits, h'.confirmed.trans h.confirmed⟩

theorem mono {ks' : List LimitKind} (h : BoardKept ks s t) (hs : ∀ k ∈ ks, k ∈ ks' := by decide) : BoardKept ks' s t :=
  ⟨h.limits.mono hs, h.confirmed⟩

theorem of_changes {bs : List Block} (h : State.ChangesOnly bs s t) (hb : Block.board ∉ bs := by decide) :
    BoardKept ks s t := of_board (h.get .board hb)

theorem ite {c : Prop} [Decidable c] (h : BoardKept ks s t) (h' : BoardKept ks s u) :
    BoardKept ks s (if c then t else u) := by
  split
  · exact h
  · exact h'

/-! ## Posts and withdrawals -/

theorem postLimit (s : State) (k : LimitKind) : BoardKept [k] s (s.postLimit k) :=
  ⟨fun _ hk => PerKind.get_set_of_ne _ _ _ _ fun e => hk (List.mem_singleton.mpr e), rfl⟩

theorem withdrawLimit (s : State) (k : LimitKind) : BoardKept [k] s (s.withdrawLimit k) :=
  ⟨fun _ hk => PerKind.get_set_of_ne _ _ _ _ fun e => hk (List.mem_singleton.mpr e), rfl⟩

theorem postReason (s : State) (m : Reason) : BoardKept [] s (s.postReason m) := ⟨fun _ _ => rfl, rfl⟩

theorem withdrawReason (s : State) (m : Reason) : BoardKept [] s (s.withdrawReason m) := ⟨fun _ _ => rfl, rfl⟩

/-! ## Steering and joints -/

theorem settleRear (s : State) (r : Rear) : BoardKept [rearLimit r] s (s.settleRear r).1 := by
  simp only [State.settleRear]
  have start : ∀ (x : RearRecord) (c : Prop) [Decidable c] (g : SteeringFaults → SteeringFaults), BoardKept [rearLimit r] s
      (if c then (s.setRear r x).latchSteering g else s.setRear r x) := fun x c _ g =>
    .ite (of_board rfl) (of_board rfl)
  refine .ite ((start _ _ _).trans (postLimit _ _)) (.ite ((start _ _ _).trans (withdrawLimit _ _)) (start _ _ _))

theorem steerTrigger (s : State) : BoardKept [.steerA3, .steerA4] s s.steerTrigger := by
  simp only [State.steerTrigger]
  exact ((settleRear s .a3).mono (by decide)).trans (((settleRear _ .a4).mono (by decide)).trans
    (of_changes (State.offerSteer_changes _ _ _)))

theorem lockRear (s : State) (r : Rear) : BoardKept [rearLimit r] s (s.lockRear r) :=
  .trans (t := s.setRear r { s.steering.rear.get r with mode := .locked }) (of_board rfl) (postLimit _ _)

theorem steerMark (s : State) : BoardKept [.steerA3, .steerA4] s s.steerMark :=
  .ite (refl s) (((lockRear s .a3).mono (by decide)).trans (((lockRear _ .a4).mono (by decide)).trans
    (of_changes (State.offerSteer_changes _ _ _))))

theorem settleJoint (s : State) (j : Joint) : BoardKept [jointLimit j] s (s.settleJoint j) := by
  simp only [State.settleJoint]
  refine .ite (.trans ?_ (postLimit _ _)) (.trans ?_ (withdrawLimit _ _))
  · exact of_board rfl
  · exact of_board rfl

theorem jointTrigger (s : State) : BoardKept [.jointJ1, .jointJ2] s s.jointTrigger := by
  have stretch : ∀ t : State, BoardKept [.jointJ1, .jointJ2] t t.writeStretch := fun t => ⟨fun _ _ => rfl, rfl⟩
  exact ((settleJoint s .j1).mono (by decide)).trans (((settleJoint _ .j2).mono (by decide)).trans
    ((stretch _).trans (of_changes (State.offerDamping_changes _))))

/-! ## Brakes -/

theorem brakeLimit (s : State) : BoardKept [.brake] s s.brakeLimit := .ite (withdrawLimit s _) (postLimit s _)

theorem computePressures (s : State) (demand : Nat) : BoardKept [.brake] s (s.computePressures demand) := by
  simp only [State.computePressures]
  refine .trans (.trans (t := s.recordLoads (PerAxle.ofFn s.axleLoad)) (of_board rfl) (brakeLimit _)) ?_
  split
  · rename_i h
    exact (of_changes (State.offerSet_changes h)).trans (of_changes (State.brakesEmitted_changes _ _))
  · exact of_board rfl

theorem computeStale (s : State) : BoardKept [.brake] s s.computeStale :=
  .trans (.ite (of_changes (s.latchBrake_changes _)) (refl s)) (computePressures _ _)

theorem brakeTrigger (s : State) : BoardKept [.brake] s s.brakeTrigger := by
  unfold State.brakeTrigger
  split
  · exact computePressures s _
  · exact computeStale s

theorem brakeMark (s : State) : BoardKept [.brake] s s.brakeMark := .ite (refl s) (computeStale s)

/-! ## Levels -/

theorem settleSlow (s : State) : BoardKept [.levelSlow] s s.settleSlow := .ite (refl s) (withdrawLimit s _)

theorem retargetRide (s : State) : BoardKept [.levelSlow] s s.retargetRide :=
  (of_changes (s.mapCorners_changes _)).trans (settleSlow _)

theorem rideNormal (s : State) : BoardKept [.levelHigh, .levelSlow] s s.rideNormal := by
  unfold State.rideNormal
  split
  · exact refl s
  · refine .trans (.trans ?_ ((retargetRide _).mono (by decide))) ((withdrawLimit _ .levelHigh).mono (by decide))
    exact of_board rfl

theorem rideHigh (s : State) : BoardKept [.levelHigh, .levelSlow] s s.rideHigh := by
  refine .trans (.trans ?_ ((retargetRide _).mono (by decide))) ((postLimit _ .levelHigh).mono (by decide))
  exact of_board rfl

theorem returnCheck (s : State) : BoardKept [.levelHigh, .levelSlow] s s.returnCheck := .ite (rideNormal s) (refl s)

theorem levelRequestNotice (s : State) : BoardKept [.levelHigh, .levelSlow] s s.levelRequestNotice := by
  simp only [State.levelRequestNotice]
  refine (returnCheck s).trans ?_
  split
  · exact refl _
  · exact .ite (rideNormal _) (.ite (rideHigh _) (refl _))

theorem kerbRequest (s : State) (q : KerbRequest) : BoardKept [.levelSlow] s (s.kerbRequest q) :=
  (of_changes (s.mapCorners_changes _)).trans (settleSlow _)

theorem levelTrigger (s : State) (a : Axle) : BoardKept [.levelHigh, .levelSlow] s (s.levelTrigger a) := by
  refine .trans (t := State.settleSlow _) (.trans ?_ ((settleSlow _).mono (by decide)))
    (of_changes (State.offerValves_changes _ _ _ _))
  exact (returnCheck s).trans ((of_changes ((State.sampleCorner_changes _ _).trans (State.sampleCorner_changes _ _))).trans
    (of_changes ((State.setCorner_changes _ _ _).trans (State.setCorner_changes _ _ _))))

theorem heightLoss (s : State) (c : Corner) : BoardKept [.levelSlow] s (s.heightLoss c) := by
  simp only [State.heightLoss]
  refine .trans (t := if _ then _ else _) (.trans (t := State.settleSlow _)
    ((of_changes (s.setCorner_changes _ _)).trans (settleSlow _)) (.ite (of_changes (State.latchLevel_changes _ _)) (refl _)))
    (.ite (of_changes (State.offerValves_changes _ _ _ _)) (refl _))

/-! ## Kneeling -/

theorem enterArming (s : State) : BoardKept [.levelHigh, .levelSlow] s s.enterArming :=
  (of_changes (s.setKneel_changes _)).trans (((postReason _ _).mono (by decide)).trans (rideNormal _))

theorem enterLowering (s : State) : BoardKept [.levelSlow] s s.enterLowering :=
  (of_changes (s.setKneel_changes _)).trans ((of_changes (State.requestSnapshot_changes _)).trans (kerbRequest _ _))

theorem enterPaused (s : State) : BoardKept [.levelSlow] s s.enterPaused :=
  (of_changes (s.setKneel_changes _)).trans (kerbRequest _ _)

theorem enterRaising (s : State) : BoardKept [.levelSlow] s s.enterRaising :=
  (of_changes (s.setKneel_changes _)).trans (kerbRequest _ _)

theorem dropKneelFault (s : State) : BoardKept [.kneelFault] s s.dropKneelFault :=
  .ite ((withdrawLimit s _).trans (of_changes (State.setKneel_changes _ _))) (refl s)

theorem enterRide (s : State) (b : Bool) : BoardKept [.kneelFault] s (s.enterRide b) := by
  have first := ((of_changes (ks := [.kneelFault]) (s.setKneel_changes fun k =>
    { k with state := .ride, armTimer := none, deadline := none })).trans ((withdrawReason _ .kneel).mono (by decide))).trans
    (of_changes (State.clearSnapshot_changes _))
  exact first.trans (.ite (dropKneelFault _) (refl _))

theorem kneelReevaluate (s : State) (ask : KneelAsk) :
    BoardKept [.levelHigh, .levelSlow, .kneelFault] s (s.kneelReevaluate ask) := by
  have lowering := (enterLowering s).mono (ks' := [.levelHigh, .levelSlow, .kneelFault]) (by decide)
  have raising := (enterRaising s).mono (ks' := [.levelHigh, .levelSlow, .kneelFault]) (by decide)
  have paused := (enterPaused s).mono (ks' := [.levelHigh, .levelSlow, .kneelFault]) (by decide)
  have ride := fun b => (enterRide s b).mono (ks' := [.levelHigh, .levelSlow, .kneelFault]) (by decide)
  unfold State.kneelReevaluate
  split
  · have dropped : BoardKept [.levelHigh, .levelSlow, .kneelFault] s
        (if s.kneel.faultPosted ∧ s.allInBand then s.dropKneelFault else s) :=
      .ite ((dropKneelFault s).mono (by decide)) (refl s)
    exact .ite (dropped.trans ((enterArming _).mono (by decide))) dropped
  · exact .ite (ride false) (.ite lowering (refl s))
  · exact .ite raising (.ite paused (.ite (of_changes (s.setKneel_changes _)) (refl s)))
  · exact .ite raising (refl s)
  · exact .ite raising (.ite lowering (refl s))
  · exact .ite lowering (.ite (ride true) (refl s))

theorem kneelMark (s : State) (b : Bool) : BoardKept [.levelHigh, .levelSlow, .kneelFault] s (s.kneelMark b) :=
  .trans (.ite (of_changes (s.setKneel_changes _)) (refl s)) (kneelReevaluate _ _)

/-! ## Doors -/

theorem syncReason (s : State) (d : Door) : BoardKept [] s (s.syncReason d) :=
  .ite (withdrawReason s _) (postReason s _)

theorem afterTransition (s : State) (d : Door) (before : DoorState) :
    BoardKept [.levelHigh, .levelSlow] s (s.afterTransition d before) :=
  .ite (((syncReason s d).mono (by decide)).trans (.ite (enterArming _) (refl _))) ((syncReason s d).mono (by decide))

theorem losePosition (s : State) (d : Door) (b : Bool) : BoardKept [] s (s.losePosition d b) := by
  simp only [State.losePosition]
  refine .ite (refl s) (.trans (.trans ?_ (syncReason _ d)) (of_changes (State.offerDoor_changes _ _ _)))
  exact .trans (t := if _ then _ else _)
    (.ite (of_changes ((s.setDoor_changes _ _).trans (State.latchEvent_changes _ _ _))) (of_changes (s.setDoor_changes _ _)))
    (.ite (of_changes (State.latchDoor_changes _ _)) (refl _))

theorem doorTrigger (s : State) (d : Door) : BoardKept [.levelHigh, .levelSlow] s (s.doorTrigger d) := by
  simp only [State.doorTrigger]
  refine .ite (refl s) ?_
  split
  · exact (losePosition s d false).mono (by decide)
  · refine .trans (.trans (.trans ?_ (afterTransition _ d _)) (.ite (of_changes (State.latchEvent_changes _ _ _)) (refl _)))
      (of_changes (State.offerDoor_changes _ _ _))
    exact of_changes (State.stepDoor_changes _ _ _ _)

theorem moveDoor (s : State) (d : Door) (x : DoorState) (g : Bool) :
    BoardKept [.levelHigh, .levelSlow] s (s.moveDoor d x g) :=
  (of_changes (s.setDoor_changes _ _)).trans ((afterTransition _ d _).trans (of_changes (State.offerDoor_changes _ _ _)))

theorem doorRequest (s : State) (d : Door) : BoardKept [.levelHigh, .levelSlow] s (s.doorRequest d) := by
  simp only [State.doorRequest]
  repeat' split
  all_goals first
    | exact refl s
    | exact moveDoor s _ _ _
    | exact (of_changes (s.setDoor_changes _ _)).trans ((syncReason _ d).mono (by decide))

/-! ## Marks -/

/-- The actions at a mark leave HALT_CONFIRMED; the steering unit's kinds are left to its own action, and SYNC to the cycle
mark source's. -/
theorem markAction (s : State) {a : MarkAction} (hs : a ≠ .steering) (hf : a ≠ .followSync) :
    BoardKept blockLimits s (s.markAction a) := by
  cases a with
  | chassis =>
    unfold State.markAction
    rw [State.offerChassis_frame]
    exact ⟨fun _ _ => rfl, rfl⟩
  | steering => exact absurd rfl hs
  | joints => exact of_changes s.jointMark_changes
  | brakes => exact (brakeMark s).mono (by decide)
  | kneel b => exact (kneelMark s b).mono (by decide)
  | followSync => exact absurd rfl hf

end State.BoardKept

theorem State.recomputeHalt_limits (s : State) : s.LimitsKept [.brake] s.recomputeHalt := by
  refine .trans ?_ (BoardKept.brakeLimit _).limits
  exact fun _ _ => rfl

theorem State.takeLoss_limits (s : State) (b : Bool) (l : Loss) : s.LimitsKept blockLimits (s.takeLoss b l) := by
  cases l with
  | height c => exact (BoardKept.heightLoss s c).limits.mono
  | position d => exact (BoardKept.losePosition s d b).limits.mono
  | brakeEcho a => exact s.recomputeHalt_limits.mono

theorem State.tractionNotice_limits (s : State) : s.LimitsKept [] s.tractionNotice := by
  unfold State.tractionNotice
  split <;> exact fun _ _ => rfl

/-- The deliveries of an arrival but a mark leave SYNC's limit, and but a STEER trigger the steering unit's two. -/
theorem State.deliver_limits (s : State) {d : Delivery} (h : d ≠ .sync) :
    s.LimitsKept (.steerA3 :: .steerA4 :: blockLimits) (s.deliver d)
      ∧ (d ≠ .steer → s.LimitsKept blockLimits (s.deliver d)) := by
  have both : s.LimitsKept blockLimits (s.deliver d) → s.LimitsKept (.steerA3 :: .steerA4 :: blockLimits) (s.deliver d)
      ∧ (d ≠ .steer → s.LimitsKept blockLimits (s.deliver d)) := fun hk => ⟨hk.mono, fun _ => hk⟩
  cases d with
  | odometer => exact both (BoardKept.of_changes s.odometerTrigger_changes).limits
  | steer => exact ⟨(BoardKept.steerTrigger s).limits.mono, fun h => absurd rfl h⟩
  | joints => exact both (BoardKept.jointTrigger s).limits.mono
  | brake => exact both (BoardKept.brakeTrigger s).limits.mono
  | level a => exact both (BoardKept.levelTrigger s a).limits.mono
  | kneelLevel => exact both (BoardKept.kneelReevaluate s _).limits.mono
  | door d => exact both (BoardKept.doorTrigger s d).limits.mono
  | kneel => exact both (BoardKept.kneelReevaluate s _).limits.mono
  | traction => exact both s.tractionNotice_limits.mono
  | levelRequest => exact both (BoardKept.levelRequestNotice s).limits.mono
  | doorRequest d => exact both (BoardKept.doorRequest s d).limits.mono
  | brakeEcho => exact both s.recomputeHalt_limits.mono
  | echo k => exact both (BoardKept.of_changes (s.echoArrival_changes k)).limits
  | loss l => exact both (s.takeLoss_limits false l)
  | sync => exact absurd rfl h

end Sys2Proof.Machine
end

section
/-! The expiry of a watch, and the mark of either kind. -/

namespace Sys2Proof.Machine

/-! ## Loss notices -/

theorem State.takeLosses_limits (s : State) (b : Bool) (lost : List SlotId) :
    s.LimitsKept blockLimits (s.takeLosses b lost) :=
  State.takeAll_induction (P := s.LimitsKept blockLimits) (fun _ h => h)
    (fun l _ t h => h.trans (t.takeLoss_limits b l)) fun _ _ => rfl

/-- What the expiry of a running watch leaves (R13, R23, R29, R31). -/
theorem State.watchExpiry_left {s : State} {i : Fin 96} (h : s.path.entries[i].watch ≠ none) :
    State.ChangesOnly [.ports, .levels, .doors, .board, .orderCount] (s.unwatched i) (s.watchExpiry i)
      ∧ (s.watchExpiry i).board.limits.sync = (s.unwatched i).board.limits.sync
      ∧ (s.unwatched i).Takes (fun x l => x.takeLoss false l)
          (lossesOf fun j => decide (s.slots[j].source = some i ∧ s.slots[j].validity = .valid)) (s.watchExpiry i) := by
  refine ⟨State.watchExpiry_changes h, ?_, ?_⟩
  · rw [State.watchExpiry_of_running h]
    exact State.takeLosses_limits _ _ _ .sync (by decide)
  · rw [State.watchExpiry_of_running h, State.fedSlots_eq]
    exact State.takeLosses_takes _ _ _

/-- Settles O21. -/
theorem watchExpiry : Obligations.WatchExpiry := by
  refine ⟨fun i s => ⟨fun h => congrArg Host.Outcome.next (State.watchExpiry_of_idle h), fun h => ?_⟩,
    fun s c d a => ⟨rfl, rfl, rfl⟩, fun i => ⟨lossOf_eq_height i, lossOf_eq_position i, lossOf_eq_brakeEcho i⟩⟩
  obtain ⟨kept, sync, losses⟩ := State.watchExpiry_left h
  have first := s.unwatched_eq i
  have cycle := s.unwatched_cycle i
  have faults := s.unwatched_faults i
  have slots : (s.watchExpiry i).slots = vmap (fun x : SignalSlot => x.silence i) s.slots :=
    (kept.get .slots).trans (by rw [first])
  have path : (s.watchExpiry i).path = (s.unwatched i).path := kept.get .path
  have entries := s.unwatched_entries i
  refine ⟨s.watchExpiry i, rfl, fun j => ?_, ?_, fun j hj => ?_, fun hc => ?_, fun hc => ?_, fun hc => ?_, fun hc hf => ?_,
    fun hc => ?_, fun hc hf => ?_, ?_, s.unwatched i, ?_, losses⟩
  · rw [slots, Fin.getElem_fin, vmap_getElem]
    rfl
  · rw [path, entries]
    simp [EntryRecord.reset]
  · rw [path, entries, Fin.getElem_fin]
    exact Vector.getElem_set_ne _ _ fun e => hj (Fin.ext e.symm)
  · rw [path, faults, hc]
  · rw [path, faults, hc]
  · rw [path, faults, hc]
  · rw [path, faults, cycle, hc, sync, first]
    simp [hc, hf]
  · rw [path, cycle, if_neg]
    rintro ⟨h1, h2⟩
    rcases hc with hc | hc
    · exact hc h1
    · simp [hc] at h2
  · rw [path, faults, hc]
    simp [hf]
  · have all : State.ChangesOnly [.slots, .path, .ports, .levels, .doors, .board, .orderCount] s (s.watchExpiry i) := by
      refine .trans (t := s.unwatched i) ?_ (kept.mono (by decide))
      rw [first]
      intro b hb
      cases b <;> first | rfl | exact absurd (by decide) hb
    generalize s.watchExpiry i = t at all
    refine State.eq_of_same fun b => ?_
    have unnamed := all b
    cases b <;> first | rfl | exact unnamed (by decide)
  · rw [slots, path]
    exact first

end Sys2Proof.Machine
end

section
/-! Cycle marks of the internal timer and of SYNC arrivals. -/

namespace Sys2Proof.Machine

/-! ## The report of a mark -/

/-- Whether a mark applies a table (R179, R180). -/
def State.applies (s : State) (n : TableName) : Bool :=
  !s.tables.hold && !(holdsMotion s.tables.waiting && s.inRun && !s.stationary) && s.tables.waiting.get n

theorem holdsMotion_eq (set : PerTable Bool) :
    holdsMotion set = [TableName.fit, .schedule, .axle, .constants].any set.get := by
  simp [holdsMotion, PerTable.all, TableName.isMotion]

/-- The verdict of a mark in terms of the tables that it applies. -/
theorem State.markVerdict_eq_apply (s : State) : s.markVerdict = .apply ↔ ∃ n, s.applies n = true := by
  have some := not_noTables_iff s.tables.waiting
  unfold State.markVerdict State.applies
  generalize (holdsMotion s.tables.waiting && s.inRun && !s.stationary) = refused
  cases refused <;> cases s.tables.hold <;> cases hn : noTables s.tables.waiting <;> simp [← some, hn]

theorem State.applies_of_apply {s : State} (h : s.markVerdict = .apply) (n : TableName) :
    s.applies n = s.tables.waiting.get n := by
  obtain ⟨n', hn'⟩ := s.markVerdict_eq_apply.mp h
  simp only [State.applies, Bool.and_eq_true] at hn'
  simp only [State.applies, hn'.1.1, hn'.1.2, Bool.true_and]

theorem State.applies_of_not_apply {s : State} (h : s.markVerdict ≠ .apply) (n : TableName) : s.applies n = false := by
  by_contra hn
  exact h (s.markVerdict_eq_apply.mpr ⟨n, by simpa using hn⟩)

/-- A mark that applies nothing changes the table store alone. -/
theorem State.storeMark_of_not_apply {s : State} (h : s.markVerdict ≠ .apply) :
    s.storeMark.1 = { s with tables := s.storeMark.1.tables }
      ∧ s.storeMark.2 = { applied := PerTable.const false, enteredRun := false }
      ∧ s.storeMark.1.inRun = s.inRun := by
  unfold State.storeMark
  split
  · exact ⟨rfl, rfl, rfl⟩
  · exact ⟨rfl, rfl, rfl⟩
  · exact absurd ‹_› h

/-- The report of a mark: the tables that it applied, and whether the part entered RUN by it (R180, R183). -/
theorem State.storeMark_report (s : State) :
    (∀ n, s.storeMark.2.applied.get n = s.applies n) ∧ s.storeMark.2.enteredRun = (!s.inRun && s.storeMark.1.inRun) := by
  by_cases h : s.markVerdict = .apply
  · have inRun : s.storeMark.1.inRun = ({ s with tables := s.tables.apply } : State).inRun := by
      rw [State.storeMark_of_apply h]
      exact State.inRun_congr ((State.applicationEffects_changes _ _ _).get .tables)
    have report : s.storeMark.2 = { applied := s.tables.waiting
                                    enteredRun := !s.inRun && ({ s with tables := s.tables.apply } : State).inRun } := by
      simp only [State.storeMark, h]
    rw [report, inRun]
    exact ⟨fun n => (State.applies_of_apply h n).symm, rfl⟩
  · obtain ⟨-, report, inRun⟩ := State.storeMark_of_not_apply h
    rw [report, inRun]
    exact ⟨fun n => by rw [State.applies_of_not_apply h, PerTable.get_const], by simp⟩

/-- Under the hold flag, or with nothing pending, a mark leaves the whole state to the blocks. -/
theorem State.storeMark_of_idle {s : State} (h : s.tables.hold = true ∨ ∀ n, s.tables.waiting.get n = false) :
    s.storeMark = (s, { applied := PerTable.const false, enteredRun := false }) := by
  have verdict : s.markVerdict = .leave := TableStore.verdict_eq_leave.mpr h
  simp only [State.storeMark, verdict]

/-- An action at a mark, but the kneel sequencer's, leaves the kneel sequencer and the level controller too. -/
theorem State.markAction_changes_of_ne_kneel (s : State) {a : MarkAction} (h : ∀ b, a ≠ .kneel b) :
    State.ChangesOnly [.ports, .path, .board, .steering, .joints, .brakes, .echoes] s (s.markAction a) := by
  cases a with
  | chassis => exact s.offerChassis_changes.mono (by decide)
  | steering => exact s.steerMark_changes.mono (by decide)
  | joints => exact s.jointMark_changes.mono (by decide)
  | brakes => exact s.brakeMark_changes.mono (by decide)
  | kneel b => exact absurd rfl (h b)
  | followSync => exact s.followSync_changes.mono (by decide)

/-- A mark with nothing to apply: what the blocks may change, and in CONFIGURING nothing (R56, R183). -/
theorem State.cycleMark_of_idle {s : State} (h : s.tables.hold = true ∨ ∀ n, s.tables.waiting.get n = false) (b : Bool) :
    State.ChangesOnly [.ports, .path, .board, .steering, .joints, .brakes, .echoes, .orderCount] s (s.cycleMark b)
      ∧ (s.inRun = false → s.cycleMark b = s) := by
  obtain ⟨takes, idle⟩ := s.cycleMark_takes b
  rw [State.storeMark_of_idle h] at takes idle
  refine ⟨?_, idle⟩
  cases hr : s.inRun with
  | false =>
    rw [idle hr]
    exact .refl _ _
  | true =>
    refine (takes hr).changes (by decide) fun a ha t => (t.markAction_changes_of_ne_kneel fun b' e => ?_).mono (by decide)
    subst e
    have none : (PerTable.const false : PerTable Bool).corner = false := rfl
    simp [markActions, none] at ha

/-! ## The internal timer -/

theorem State.cycleExpiry_of_free {s : State} (ht : s.path.cycle.timer ≠ none) (hf : s.path.cycle.sync = .freeRun) :
    s.cycleExpiry = (s.cycleMark false).setCycleTimer (some (s.cycleMark false).cyclePeriod) := by
  simp only [State.cycleExpiry, if_neg ht, hf]

/-! ## SYNC arrivals -/

/-- At a SYNC arrival in FREE_RUN that applies no FIT, SYNC is withdrawn where it was posted (R23). -/
theorem State.syncArrival_limit {s : State} (hr : s.inRun = true) (hf : s.path.cycle.sync = .freeRun)
    (hfit : s.wouldApplyFit = false) (hp : s.path.cycle.syncPosted = true) :
    s.syncArrival.board.limits.sync = none := by
  have follows : (!s.followsSync) = true := by simp [State.followsSync, hf]
  have takes := (s.cycleMark_takes true).1 (State.storeMark_inRun hr)
  rw [markActions_eq, State.storeMark_applied_fit, hfit] at takes
  obtain ⟨before, after, n, hbefore, hafter, ht⟩ := takes.around (List.perm_append_singleton _ _)
  have path : (s.storeMark.1.run State.markAction before).path = s.path := by
    rw [← ((State.storeMark_changes_of_noFit hfit).get .path : s.storeMark.1.path = s.path)]
    exact State.run_induction (P := fun t => t.path = s.storeMark.1.path) (fun _ _ ht => ht)
      (fun a ha t ht => (t.markAction_path fun e => followSync_not_mem_blockActions _ (e ▸ ha)).trans ht) hbefore rfl
  rw [State.syncArrival, follows, ht]
  refine State.run_induction (P := fun t => t.board.limits.sync = none) (fun _ _ ht => ht) (fun a ha t ht => ?_) hafter ?_
  · have kept : t.LimitsKept (.steerA3 :: .steerA4 :: blockLimits) (t.markAction a) := by
      by_cases hs : a = .steering
      · subst hs
        exact (State.BoardKept.steerMark t).limits.mono
      · exact (State.BoardKept.markAction t hs fun e => followSync_not_mem_blockActions _ (e ▸ ha)).limits.mono
    exact (kept .sync (by decide)).trans ht
  · show (State.followSync _).board.limits.sync = none
    simp only [State.followSync]
    rw [show ({ s.storeMark.1.run State.markAction before with orderCount := n } : State).path = s.path from path, hp]
    rfl

/-- The blocks beside the table store act on an idle mark. -/
theorem State.eq_of_idle_changes {s t : State}
    (h : State.ChangesOnly [.ports, .path, .board, .steering, .joints, .brakes, .echoes, .orderCount] s t) :
    t = { s with path := t.path, ports := t.ports, board := t.board, steering := t.steering, joints := t.joints
                 brakes := t.brakes, echoes := t.echoes, orderCount := t.orderCount } := by
  refine State.eq_of_same fun b => ?_
  have unnamed := h b
  cases b <;> first | rfl | exact unnamed (by decide)

/-- After a SYNC arrival that applies no FIT the source follows SYNC, with SYNC withdrawn where it was posted (R23). -/
theorem State.Accepts.sync_followed {s : State} {p : Port} {f : Frame} {m : Matched} (h : s.Accepts p f m)
    (hs : m.cls = .sync)
    (hn : ¬(s.tables.hold = false ∧ s.tables.waiting.fit = true ∧ (s.seeing m f).stationary = true)) :
    (s.frameArrival p f).path.cycle = (if s.path.cycle.sync = .freeRun then
        { sync := .followingSync, timer := none, syncPosted := false } else s.path.cycle)
      ∧ (s.path.cycle.sync = .freeRun → s.path.cycle.syncPosted = true →
          (s.frameArrival p f).board.limits.sync = none) := by
  obtain ⟨u, before, after, n, hu, hb, ha, -, ht⟩ := h.syncArrival hs
  obtain ⟨first, tables, -⟩ := hu.before (n := n) hb
  set v : State := { u.run State.deliver before with orderCount := n }
  have free := s.sync_not_mem_deliveries m f
  have slots : v.slots = u.slots := first.get .slots
  have path : v.path = u.path := first.get .path
  have cycle : v.path.cycle = s.path.cycle := by rw [path, hu.cycle]
  have inRun : v.inRun = true := by rw [State.inRun_congr tables, h.matched.run]
  have unapplied : v.wouldApplyFit = false := by
    rw [State.wouldApplyFit_congr (tables.trans hu.tables.symm) slots]
    simpa using fun hw => hn ((hu.wouldApplyFit h.matched.run).mp hw)
  have last : (v.syncArrival.run State.deliver after).path = v.syncArrival.path :=
    (v.syncArrival.run_deliver_changes free ha).get .path
  rw [ht, last, v.syncArrival_cycle inRun unapplied, cycle]
  refine ⟨rfl, fun hf hp => ?_⟩
  exact State.run_induction (P := fun t => t.board.limits.sync = none) (fun _ _ ht => ht)
    (fun d hd t ht => ((t.deliver_limits fun e => free (e ▸ hd)).1 .sync (by decide)).trans ht) ha
    (v.syncArrival_limit inRun (by rw [cycle, hf]) unapplied (by rw [cycle, hp]))

/-- Settles O22. -/
theorem cycleTimerExpiry : Obligations.CycleTimerExpiry := by
  refine ⟨fun s => ⟨fun h => ?_, fun ht hf => ?_⟩, fun p f m s h hs => ?_, fun s => ⟨fun ht hf => ?_, ?_⟩, fun s b => ?_,
    fun s => ⟨rfl, rfl, rfl, rfl, fun _ => rfl, ?_⟩⟩
  · exact congrArg Host.Outcome.next (if_pos h)
  · have expiry := State.cycleExpiry_of_free ht hf
    have changes := s.cycleMark_changes false
    refine ⟨s.cycleExpiry, rfl, ?_, ?_, ?_, ?_, ?_, ?_, fun hi => ?_⟩
    all_goals rw [expiry]
    · exact State.cycleMark_free hf
    · rfl
    · exact changes.get .node
    · exact changes.get .agent
    · exact changes.get .pending
    · rw [State.setCycleTimer_tables, State.cycleMark_tables]
      exact TableStore.marked_mark _ _
    · obtain ⟨kept, idle⟩ := State.cycleMark_of_idle hi false
      refine ⟨fun hr => ?_, ?_⟩
      · rw [idle hr, State.cyclePeriod, hr]
        rfl
      · have all := kept.trans
          ((State.setCycleTimer_changes _ (some (s.cycleMark false).cyclePeriod)).mono (by decide))
        generalize (s.cycleMark false).setCycleTimer _ = t at all
        exact State.eq_of_idle_changes all
  · intro x seen
    obtain ⟨u, hu, hnode, hagent, hpending, -⟩ := h.stored
    refine ⟨s.frameArrival p f, rfl, hnode, hagent, hpending, ?_, fun hn => ?_, fun hi htrig hquiet => ?_⟩
    · rw [h.sync_tables hs]
      exact TableStore.marked_mark _ _
    · obtain ⟨cycle, limit⟩ := h.sync_followed hs hn
      exact ⟨fun hf => ⟨cycle.trans (if_pos hf), limit hf⟩, fun hf => cycle.trans (if_neg (by rw [hf]; decide))⟩
    · obtain ⟨u, hu, ht⟩ := h.arrived
      have unapplied : u.wouldApplyFit = false := by
        by_contra hw
        obtain ⟨hh, hfit, -⟩ := (hu.wouldApplyFit h.matched.run).mp (by simpa using hw)
        rcases hi with hi | hi
        · simp [hi] at hh
        · exact absurd hfit (by rw [show s.tables.waiting.fit = false from hi .fit]; decide)
      have alone : s.frameArrival p f = u.syncArrival := by
        rw [ht, State.deliveries_of_quiet f hquiet, htrig, decide_eq_true hs]
        simp only [State.handOn, unapplied, State.triggerDeliveries, ite_self]
        rfl
      have idle : u.tables.hold = true ∨ ∀ n, u.tables.waiting.get n = false := by rwa [hu.tables]
      have all : State.ChangesOnly [.slots, .ports, .path, .board, .steering, .joints, .brakes, .echoes, .orderCount] s
          (s.frameArrival p f) := by
        rw [alone]
        exact (hu.changes.mono (by decide)).trans ((State.cycleMark_of_idle idle (!u.followsSync)).1.mono (by decide))
      have slots : (s.frameArrival p f).slots = x.slots := by
        rw [alone, (State.syncArrival_keeps unapplied).1, hu.slots]
      generalize s.frameArrival p f = t at all slots
      refine State.eq_of_same fun b => ?_
      have unnamed := all b
      cases b <;> first | rfl | exact slots | exact unnamed (by decide)
  · exact congrArg Host.Outcome.next (State.cycleExpiry_of_free ht hf)
  · rw [State.syncArrival, State.followsSync]
    cases s.path.cycle.sync <;> rfl
  · intro u t motion applied entered
    have motionEq : holdsMotion s.tables.waiting = motion := holdsMotion_eq _
    have appliedEq : s.applies = applied := by
      funext n
      rw [State.applies, motionEq]
    obtain ⟨report, enteredEq⟩ := s.storeMark_report
    obtain ⟨takes, idle⟩ := s.cycleMark_takes b
    refine ⟨?_, fun ha => ?_, idle, fun hr => ?_⟩
    · rw [show u.tables = s.tables.mark s.stationary from s.storeMark_tables]
      exact TableStore.marked_mark _ _
    · refine (State.storeMark_of_not_apply fun hv => ?_).1
      obtain ⟨n, hn⟩ := s.markVerdict_eq_apply.mp hv
      rw [appliedEq, ha n] at hn
      cases hn
    · have corner : s.storeMark.2.applied.corner = applied .corner := by
        rw [← appliedEq]
        exact report .corner
      have fit : s.storeMark.2.applied.fit = applied .fit := by
        rw [← appliedEq]
        exact report .fit
      have taken := takes hr
      rw [markActions, corner, fit, enteredEq] at taken
      exact taken
  · simp only [State.markAction, State.followSync]
    split <;> rfl

end Sys2Proof.Machine
end

section
/-! A mark that finds JOINT1 missing. -/

namespace Sys2Proof.Machine

/-! ## Both rear axles locked -/

/-- Both rear axles are LOCKED, with their kinds posted (R82). -/
structure State.RearLocked (t : State) : Prop where
  modes : ∀ r, (t.steering.rear.get r).mode = .locked
  a3 : t.board.limits.steerA3 = some (t.paramNat .limitSteerA3)
  a4 : t.board.limits.steerA4 = some (t.paramNat .limitSteerA4)

theorem State.RearLocked.congr {s t : State} (h : s.RearLocked) (hm : ∀ r, (t.steering.rear.get r).mode = (s.steering.rear.get r).mode)
    (ht : t.tables = s.tables) (hl : s.LimitsKept (.sync :: blockLimits) t) : t.RearLocked where
  modes r := (hm r).trans (h.modes r)
  a3 := (hl .steerA3 (by decide)).trans (by rw [State.paramNat_congr ht]; exact h.a3)
  a4 := (hl .steerA4 (by decide)).trans (by rw [State.paramNat_congr ht]; exact h.a4)

/-- Without coverage only an axle in FOLLOW changes its mode (R66). -/
theorem State.checkCoverages_locked {s : State} (h : ∀ r, (s.steering.rear.get r).mode = .locked) (r : Rear) :
    (s.checkCoverages.steering.rear.get r).mode = .locked := by
  have one : ∀ r, s.checkCoverage r = s := fun r => by
    simp only [State.checkCoverage, h r]
    exact if_neg (by simp)
  rw [State.checkCoverages, one, one]
  exact h r

/-! ## The LOCK set -/

theorem State.echoEmission_frame (s : State) (k : EchoKind) (v : Int) :
    s.echoEmission k v = { s with echoes := (s.echoEmission k v).echoes } := by
  unfold State.echoEmission
  split <;> rfl

theorem State.echoEmission_echoes_congr {s t : State} (ht : t.tables = s.tables) (he : t.echoes = s.echoes) (k : EchoKind)
    (v : Int) : (t.echoEmission k v).echoes = (s.echoEmission k v).echoes := by
  unfold State.echoEmission
  rw [State.echoSpec_congr ht]
  split
  · exact he
  · simp only [State.setEcho, he]

/-- An admitted steer frame: the last angle command, and the echo record told (R81, R167). -/
theorem State.steerEmitted_eq (s : State) (r : Rear) (c : SteerCommand) : s.steerEmitted r c = { s with
    steering := { s.steering with
      rear := s.steering.rear.set r { s.steering.rear.get r with lastAngle := commandAngle c } }
    echoes := (s.echoEmission (.steer r) (commandAngle c)).echoes } := by
  have told := State.echoEmission_echoes_congr (s := s)
    (t := s.setRear r { s.steering.rear.get r with lastAngle := commandAngle c }) rfl rfl (.steer r) (commandAngle c)
  rw [State.steerEmitted, State.echoEmission_frame, told]
  rfl

/-- The frames of the LOCK set (R81, 12.6). -/
def State.lockFrames (s : State) : List Frame := s.emitFrames [(.steer .a3, [1, 0, 0]), (.steer .a4, [1, 0, 0])]

/-- The offer of a LOCK set (R81, R167). -/
theorem State.offerSteer_lock (s : State) : s.offerSteer .lock .lock =
    match s.ports.d.admission .priority s.lockFrames with
    | some y => { s with
        ports := s.ports.set .d y
        steering := { s.steering with rear := PerRear.ofFn fun r => { s.steering.rear.get r with lastAngle := 0 } }
        echoes := ((s.echoEmission (.steer .a3) 0).echoEmission (.steer .a4) 0).echoes }
    | none => s.latchSteering fun f => { f with egressDrop := true } := by
  have told : ∀ u : State, u.tables = s.tables → u.echoes = s.echoes →
      ((u.steerEmitted .a3 .lock).echoEmission (.steer .a4) (commandAngle .lock)).echoes
        = ((s.echoEmission (.steer .a3) 0).echoEmission (.steer .a4) 0).echoes := by
    intro u ht he
    refine State.echoEmission_echoes_congr ?_ ?_ _ _
    · rw [State.steerEmitted_eq, State.echoEmission_frame s]
      exact ht
    · rw [State.steerEmitted_eq]
      exact State.echoEmission_echoes_congr ht he _ _
  have offered : s.offerSet .d .priority (s.emitFrames [(.steer .a3, steerData .lock), (.steer .a4, steerData .lock)])
      = match s.ports.d.admission .priority s.lockFrames with
        | some y => some { s with ports := s.ports.set .d y }
        | none => none := rfl
  unfold State.offerSteer
  rw [offered]
  cases s.ports.d.admission .priority s.lockFrames with
  | none => rfl
  | some y =>
    show State.steerEmitted (State.steerEmitted { s with ports := s.ports.set .d y } .a3 .lock) .a4 .lock = _
    rw [State.steerEmitted_eq _ .a4, told { s with ports := s.ports.set .d y } rfl rfl, State.steerEmitted_eq _ .a3]
    rfl

/-- Both rear axles locked with their kinds posted (R82). -/
theorem State.rearsLocked_eq (s : State) : (s.lockRear .a3).lockRear .a4 = { s with
    board := { s.board with limits := { s.board.limits with
      steerA3 := some (s.paramNat .limitSteerA3), steerA4 := some (s.paramNat .limitSteerA4) } }
    steering := { s.steering with
      rear := PerRear.ofFn fun r => { s.steering.rear.get r with mode := .locked } } } := rfl

theorem State.steerMark_of_missing {s : State} (h : s.present (slotJoint .j1) = false) :
    s.steerMark = ((s.lockRear .a3).lockRear .a4).offerSteer .lock .lock := by
  rw [State.steerMark, if_neg (by simp [h])]

/-- The steering unit's part of a mark without JOINT1, its LOCK set admitted or refused (R81, R82, R167). -/
theorem State.steerMark_eq {s : State} (h : s.present (slotJoint .j1) = false) : s.steerMark =
    match s.ports.d.admission .priority s.lockFrames with
    | some y => { (s.lockRear .a3).lockRear .a4 with
        ports := s.ports.set .d y
        steering := { s.steering with rear := PerRear.const { mode := .locked, lastAngle := 0 } }
        echoes := ((s.echoEmission (.steer .a3) 0).echoEmission (.steer .a4) 0).echoes }
    | none => ((s.lockRear .a3).lockRear .a4).latchSteering fun f => { f with egressDrop := true } := by
  have told : ((((s.lockRear .a3).lockRear .a4).echoEmission (.steer .a3) 0).echoEmission (.steer .a4) 0).echoes
      = ((s.echoEmission (.steer .a3) 0).echoEmission (.steer .a4) 0).echoes := by
    refine State.echoEmission_echoes_congr ?_ ?_ _ _
    · rw [State.echoEmission_frame, State.echoEmission_frame s]
      rfl
    · exact State.echoEmission_echoes_congr (s := s) (t := (s.lockRear .a3).lockRear .a4) rfl rfl _ _
  rw [State.steerMark_of_missing h, State.offerSteer_lock, told]
  rfl

/-- A STEER trigger that finds JOINT1 missing locks both rear axles as a mark does (R69, R70). -/
theorem State.steerTrigger_of_missing {s : State} (h : s.present (slotJoint .j1) = false) : s.steerTrigger = s.steerMark := by
  have settled : ∀ (t : State) r, t.present (slotJoint .j1) = false → t.settleRear r = (t.lockRear r, .lock) := by
    intro t r ht
    have stepped : t.modeStep r = .locked := by simp [State.modeStep, State.inputsMissing, ht]
    simp [State.settleRear, stepped, State.rearCommand, State.lockRear]
  rw [State.steerMark_of_missing h]
  simp only [State.steerTrigger]
  rw [settled s .a3 h]
  rw [settled (s.lockRear .a3) .a4 h]

/-! ## What a mark without JOINT1 leaves -/

theorem State.steerMark_locked {s : State} (h : s.present (slotJoint .j1) = false) : s.steerMark.RearLocked := by
  rw [State.steerMark_of_missing h, State.rearsLocked_eq, State.offerSteer_lock]
  split
  · exact ⟨fun r => by simp, rfl, rfl⟩
  · exact ⟨fun r => by simp, rfl, rfl⟩

/-- A state that finds JOINT1 missing and both rear axles LOCKED. -/
structure State.LockedOut (t : State) : Prop where
  missing : t.present (slotJoint .j1) = false
  locked : t.RearLocked

/-- An odometer trigger leaves LOCKED axles LOCKED (R66). -/
theorem State.odometerTrigger_modes {s : State} (h : ∀ r, (s.steering.rear.get r).mode = .locked) (r : Rear) :
    (s.odometerTrigger.steering.rear.get r).mode = .locked := by
  unfold State.odometerTrigger
  split
  · exact h r
  · rename_i x _
    rcases s.track.sample s.pitch x s.pathHeading with ⟨track, broken⟩
    refine State.checkCoverages_locked (fun r => ?_) r
    cases broken <;> exact h r

/-- The deliveries of an arrival keep both axles LOCKED while JOINT1 is missing (R66, R70). -/
theorem State.LockedOut.deliver {s : State} (h : s.LockedOut) {d : Delivery} (hd : d ≠ .sync) : (s.deliver d).LockedOut := by
  have kept := s.deliver_changes hd
  have missing : (s.deliver d).present (slotJoint .j1) = false := by
    rw [State.present_congr (kept.get .slots)]
    exact h.missing
  by_cases hs : d = .steer
  · refine ⟨missing, ?_⟩
    rw [hs]
    simp only [State.deliver, State.steerTrigger_of_missing h.missing]
    exact State.steerMark_locked h.missing
  · have limits := (s.deliver_limits hd).2 hs
    by_cases ho : d = .odometer
    · refine ⟨missing, h.locked.congr (fun r => ?_) (kept.get .tables) limits.mono⟩
      rw [ho, h.locked.modes r]
      exact State.odometerTrigger_modes h.locked.modes r
    · exact ⟨missing, h.locked.congr (fun r => by rw [s.deliver_steering hd ho hs]) (kept.get .tables) limits.mono⟩

theorem State.followSync_limits (s : State) : s.LimitsKept [.sync] s.followSync := by
  refine fun k hk => ?_
  have ne : k ≠ .sync := fun e => hk (List.mem_singleton.mpr e)
  simp only [State.followSync]
  split
  · exact PerKind.get_set_of_ne _ _ _ _ ne
  · rfl

/-- The actions at a mark keep both axles LOCKED while JOINT1 is missing (R82). -/
theorem State.LockedOut.markAction {s : State} (h : s.LockedOut) (a : MarkAction) : (s.markAction a).LockedOut := by
  have kept := s.markAction_changes a
  have missing : (s.markAction a).present (slotJoint .j1) = false := by
    rw [State.present_congr (kept.get .slots)]
    exact h.missing
  have other : (s.markAction a).steering = s.steering → a ≠ .steering → (s.markAction a).LockedOut := fun hm hs => by
    refine ⟨missing, h.locked.congr (fun r => by rw [hm]) (kept.get .tables) ?_⟩
    by_cases hf : a = .followSync
    · subst hf
      exact s.followSync_limits.mono
    · exact (State.BoardKept.markAction s hs hf).limits.mono
  cases a with
  | chassis => exact other (s.offerChassis_changes.get .steering) (by decide)
  | steering => exact ⟨missing, State.steerMark_locked h.missing⟩
  | joints => exact other (s.jointMark_changes.get .steering) (by decide)
  | brakes => exact other (s.brakeMark_changes.get .steering) (by decide)
  | kneel b => exact other ((s.kneelMark_changes b).get .steering) (by simp)
  | followSync => exact other (s.followSync_changes.get .steering) (by decide)

/-! ## Both joints stiff -/

/-- Both joints are damped FULL with their envelope states kept (R95). -/
def State.Stiffens (s t : State) : Prop :=
  ∀ j, t.joints.records.get j = { envelope := (s.joints.records.get j).envelope, damping := .full }

theorem State.Stiffens.congr {s s' t t' : State} (h : s.Stiffens t) (hs : s'.joints = s.joints) (ht : t'.joints = t.joints) :
    s'.Stiffens t' := fun j => by rw [hs, ht, h j]

/-- Both joints as a mark without JOINT1 leaves them, before their set is offered (R95). -/
def State.jointsFull (s : State) : State :=
  { s with joints := { s.joints with
      records := PerJoint.ofFn fun j => { s.joints.records.get j with damping := .full } } }

theorem State.jointMark_of_missing {s : State} (h : s.present (slotJoint .j1) = false) :
    s.jointMark = s.jointsFull.offerDamping := by
  simp only [State.jointMark, h, Bool.false_eq_true, if_false]
  rfl

theorem State.jointMark_stiffens {s : State} (h : s.present (slotJoint .j1) = false) : s.Stiffens s.jointMark := by
  intro j
  rw [State.jointMark_of_missing h, State.offerDamping_frame]
  exact PerJoint.get_ofFn _ _

/-- The joint unit acts at STEER triggers alone (R88). -/
theorem State.deliver_joints (s : State) {d : Delivery} (h : d ≠ .sync) (hj : d ≠ .joints) :
    (s.deliver d).joints = s.joints := by
  cases d with
  | odometer => exact s.odometerTrigger_changes.get .joints
  | steer => exact s.steerTrigger_changes.get .joints
  | joints => exact absurd rfl hj
  | brake => exact s.brakeTrigger_changes.get .joints
  | level a => exact (s.levelTrigger_changes a).get .joints
  | kneelLevel => exact s.kneelLevelTrigger_changes.get .joints
  | door d => exact (s.doorTrigger_changes d).get .joints
  | kneel => exact s.kneelTrigger_changes.get .joints
  | traction => exact s.tractionNotice_changes.get .joints
  | levelRequest => exact s.levelRequestNotice_changes.get .joints
  | doorRequest d => exact (s.doorRequest_changes d).get .joints
  | brakeEcho => exact s.recomputeHalt_changes.get .joints
  | echo k => exact (s.echoArrival_changes k).get .joints
  | loss l => exact (s.takeLoss_changes false l).get .joints
  | sync => exact absurd rfl h

theorem State.markAction_joints (s : State) {a : MarkAction} (h : a ≠ .joints) : (s.markAction a).joints = s.joints := by
  cases a with
  | chassis => exact s.offerChassis_changes.get .joints
  | steering => exact s.steerMark_changes.get .joints
  | joints => exact absurd rfl h
  | brakes => exact s.brakeMark_changes.get .joints
  | kneel b => exact (s.kneelMark_changes b).get .joints
  | followSync => exact s.followSync_changes.get .joints

/-! ## The whole mark -/

/-- A slot that does not count as VALID is no better after the table store's part of a mark (R24). -/
theorem State.storeMark_missing {s : State} {i : SlotId} (h : s.present i = false) : s.storeMark.1.present i = false := by
  cases hf : s.wouldApplyFit with
  | true => simp [State.present, State.readSlot, (State.storeMark_fit hf).1, SignalSlot.reset]
  | false =>
    rw [State.present_congr ((State.storeMark_changes_of_noFit hf).get .slots)]
    exact h

theorem State.markAction_missing {s : State} {i : SlotId} (h : s.present i = false) (a : MarkAction) :
    (s.markAction a).present i = false := by
  rw [State.present_congr ((s.markAction_changes a).get .slots)]
  exact h

theorem markActions_nodup (report : MarkReport) (b : Bool) : (markActions report b).Nodup := by
  unfold markActions
  split <;> split <;> simp

/-- A mark in RUN without JOINT1: both rear axles LOCKED and both joints stiff (R82, R95). -/
theorem State.cycleMark_missing {s : State} (hr : s.inRun = true) (h : s.present (slotJoint .j1) = false) (b : Bool) :
    (s.cycleMark b).LockedOut ∧ s.Stiffens (s.cycleMark b) := by
  have takes := (s.cycleMark_takes b).1 (State.storeMark_inRun hr)
  have missing := State.storeMark_missing h
  have run : ∀ {order : List (MarkAction × Nat)} {rest : List MarkAction}, (∀ x ∈ order, x.1 ∈ rest) →
      (s.storeMark.1.run State.markAction order).present (slotJoint .j1) = false := fun ho =>
    State.run_induction (P := fun t => t.present (slotJoint .j1) = false) (fun _ _ ht => ht)
      (fun a _ t ht => State.markAction_missing ht a) ho missing
  constructor
  · obtain ⟨before, after, n, hbefore, hafter, ht⟩ :=
      takes.around (e := .steering) (List.perm_cons_erase (by simp [markActions]))
    rw [ht]
    refine State.run_induction (P := State.LockedOut) (fun _ _ h => ⟨h.missing, h.locked.congr (fun _ => rfl) rfl fun _ _ => rfl⟩)
      (fun a _ t ht => ht.markAction a) hafter ?_
    have first : ({ s.storeMark.1.run State.markAction before with orderCount := n } : State).present (slotJoint .j1) = false :=
      run hbefore
    exact ⟨State.markAction_missing first .steering, State.steerMark_locked first⟩
  · obtain ⟨before, after, n, hbefore, hafter, ht⟩ :=
      takes.around (e := .joints) (List.perm_cons_erase (by simp [markActions]))
    have others : ∀ (u : State) {order : List (MarkAction × Nat)},
        (∀ x ∈ order, x.1 ∈ (markActions s.storeMark.2 b).erase .joints) →
        (u.run State.markAction order).joints = u.joints := fun u _ ho =>
      State.run_induction (P := fun t => t.joints = u.joints) (fun _ _ h => h)
        (fun a ha t ht => (t.markAction_joints fun e => (markActions_nodup _ _).not_mem_erase (e ▸ ha)).trans ht) ho rfl
    have first : ({ s.storeMark.1.run State.markAction before with orderCount := n } : State).present (slotJoint .j1) = false :=
      run hbefore
    have kept : ({ s.storeMark.1.run State.markAction before with orderCount := n } : State).joints = s.joints :=
      (others _ hbefore).trans (s.storeMark_changes.get .joints)
    rw [ht]
    exact (State.jointMark_stiffens first).congr kept.symm (others _ hafter)

theorem State.joints_not_mem_deliveries (s : State) (m : Matched) (f : Frame) (h : m.trigger ≠ .steer) :
    Delivery.joints ∉ s.deliveries m f := by
  have trigger : Delivery.joints ∉ s.triggerDeliveries m.trigger := by
    cases hm : m.trigger with
    | steer => exact absurd hm h
    | levelAxle a =>
      simp only [State.triggerDeliveries]
      split <;> simp
    | _ => simp [State.triggerDeliveries]
  simp only [State.deliveries, List.mem_append, List.mem_flatMap, List.mem_map, reduceCtorEq, and_false, exists_false, or_false]
  rintro (hd | ⟨i, -, hd⟩)
  · split at hd
    · exact absurd hd List.not_mem_nil
    · exact trigger hd
  · simp [State.mem_slotNotices] at hd

/-- The mark of an accepted SYNC arrival without JOINT1 (R82, R95). -/
theorem State.Accepts.sync_missing {s : State} {p : Port} {f : Frame} {m : Matched} (h : s.Accepts p f m)
    (hs : m.cls = .sync) (hm : (s.seeing m f).present (slotJoint .j1) = false) :
    (s.frameArrival p f).RearLocked ∧ (m.trigger ≠ .steer → s.Stiffens (s.frameArrival p f)) := by
  obtain ⟨u, before, after, n, hu, hb, ha, -, ht⟩ := h.syncArrival hs
  obtain ⟨first, tables, -⟩ := hu.before (n := n) hb
  set v : State := { u.run State.deliver before with orderCount := n } with hv
  have free := s.sync_not_mem_deliveries m f
  have slots : v.slots = u.slots := first.get .slots
  have missing : v.present (slotJoint .j1) = false := by
    rw [State.present_congr (slots.trans hu.slots : v.slots = (s.seeing m f).slots)]
    exact hm
  have inRun : v.inRun = true := by rw [State.inRun_congr tables, h.matched.run]
  obtain ⟨locked, stiff⟩ := State.cycleMark_missing inRun missing (!v.followsSync)
  rw [ht]
  refine ⟨?_, fun htrig => ?_⟩
  · have all : (v.syncArrival.run State.deliver after).LockedOut :=
      State.run_induction (P := State.LockedOut)
        (fun _ _ h => ⟨h.missing, h.locked.congr (fun _ => rfl) rfl fun _ _ => rfl⟩)
        (fun d hd t ht => ht.deliver fun e => free (e ▸ hd)) ha locked
    exact all.locked
  · have quiet := s.joints_not_mem_deliveries m f htrig
    have others : ∀ (w : State) {order : List (Delivery × Nat)}, (∀ x ∈ order, x.1 ∈ s.deliveries m f) →
        (w.run State.deliver order).joints = w.joints := fun w _ ho =>
      State.run_induction (P := fun t => t.joints = w.joints) (fun _ _ h => h)
        (fun d hd t ht => (t.deliver_joints (fun e => free (e ▸ hd)) fun e => quiet (e ▸ hd)).trans ht) ho rfl
    have kept : v.joints = s.joints := (others u hb).trans (hu.changes.get .joints)
    exact stiff.congr kept.symm (others _ ha)

/-- Settles O24. -/
theorem missingJointLocksAxles : Obligations.MissingJointLocksAxles := by
  refine ⟨fun s ht hf hr hm => ?_, fun p f m s h hs hm => ?_, fun s => ?_⟩
  · obtain ⟨⟨-, locked⟩, stiff⟩ := State.cycleMark_missing hr hm false
    refine ⟨s.cycleExpiry, rfl, ?_⟩
    rw [State.cycleExpiry_of_free ht hf]
    exact ⟨⟨locked.modes, locked.a3, locked.a4⟩, stiff⟩
  · obtain ⟨locked, stiff⟩ := h.sync_missing hs hm
    exact ⟨s.frameArrival p f, rfl, ⟨locked.modes, locked.a3, locked.a4⟩, stiff⟩
  · intro t u locks
    refine ⟨rfl, rfl, fun h => ⟨if_pos h, if_pos h⟩, fun h => ?_⟩
    obtain ⟨modes, a3, a4⟩ := State.steerMark_locked h
    have mark : t = _ := State.steerMark_eq h
    have damp : u = s.jointsFull.offerDamping := State.jointMark_of_missing h
    have records : u.joints.records = s.jointsFull.joints.records := by rw [damp, State.offerDamping_frame]
    have offered : s.Offered .d .priority locks t s.steering.faults.egressDrop t.steering.faults.egressDrop := by
      unfold State.Offered
      cases ha : (s.ports.get .d).admission .priority locks with
      | none =>
        rw [mark, show s.ports.d.admission .priority s.lockFrames = none from ha]
        exact ⟨rfl, rfl⟩
      | some y =>
        rw [mark, show s.ports.d.admission .priority s.lockFrames = some y from ha]
        exact ⟨rfl, rfl⟩
    refine ⟨⟨modes, a3, a4⟩, State.jointMark_stiffens h, offered, fun y ha => ?_, fun ha => ?_, ?_, ?_, ?_⟩
    · rw [mark, show s.ports.d.admission .priority s.lockFrames = some y from ha]
      exact ⟨fun r => by simp, rfl⟩
    · rw [mark, show s.ports.d.admission .priority s.lockFrames = none from ha]
      exact ⟨fun r => by cases r <;> rfl, rfl⟩
    · rw [mark]
      split <;> rfl
    · rw [damp]
      exact s.jointsFull.offerDamping_offered
    · rw [records, damp]
      exact s.jointsFull.offerDamping_frame

end Sys2Proof.Machine
end

section
/-! An application of the DOOR table at the doors and their members (R43, R165). -/

namespace Sys2Proof.Machine

theorem PerDoor.set_get_self {α : Type} (r : PerDoor α) (i : Door) : r.set i (r.get i) = r := by
  cases i <;> rfl

/-- The record that an application of the DOOR table leaves of a door (R165). -/
def State.appliedDoor (s : State) (d : Door) : DoorRecord :=
  if !(s.doorParams d).fitted then .reset .absent
  else if (s.door d).state = .absent then .reset .unproven
  else { s.door d with
    debounce := min (s.door d).debounce (s.doorParams d).debounce
    reversals := min (s.door d).reversals (s.doorParams d).maxReversals }

/-- A door's member of a reason set after an application of the DOOR table, from the one before (R43, R165). -/
def State.appliedMember (s : State) (d : Door) (before : Bool) : Bool :=
  if !(s.doorParams d).fitted then false else if (s.door d).state = .absent then true else before

/-- The halt latch is set while the halt set holds a member (R45). -/
def State.Latched (s : State) : Prop := s.board.haltSet.isEmpty = false → s.board.haltLatch = true

/-- What an application of the DOOR table has done once it has reached some of the doors. -/
structure State.DoorsReached (ds : List Door) (s t : State) : Prop where
  frame : t = { s with
    doors := { s.doors with records := t.doors.records }
    board := { s.board with
      haltSet := { s.board.haltSet with doors := t.board.haltSet.doors }
      driveInhibit := { s.board.driveInhibit with doors := t.board.driveInhibit.doors }
      haltLatch := t.board.haltLatch } }
  record : ∀ d, t.door d = if d ∈ ds then s.appliedDoor d else s.door d
  halt : ∀ d, t.board.haltSet.has (.door d)
    = if d ∈ ds then s.appliedMember d (s.board.haltSet.has (.door d)) else s.board.haltSet.has (.door d)
  inhibit : ∀ d, t.board.driveInhibit.has (.door d)
    = if d ∈ ds then s.appliedMember d (s.board.driveInhibit.has (.door d)) else s.board.driveInhibit.has (.door d)
  latched : s.Latched → t.Latched
  raised : s.board.haltLatch = true → t.board.haltLatch = true
  posted : s.Latched → ∀ d ∈ ds, s.fitted d = true → (s.door d).state = .absent → t.board.haltLatch = true

theorem ReasonSet.isEmpty_put_false {r : ReasonSet} {m : Reason} (h : (r.put m false).isEmpty = false) :
    r.isEmpty = false := by
  by_contra hr
  rw [Bool.not_eq_false, ReasonSet.isEmpty_iff] at hr
  refine Bool.eq_false_iff.mp h ((ReasonSet.isEmpty_iff _).mpr fun m' => ?_)
  by_cases e : m' = m
  · rw [e, ReasonSet.has_put]
  · rw [ReasonSet.has_put_of_ne _ _ e, hr]

theorem State.postReason_latch {s : State} (h : s.Latched) (m : Reason) : (s.postReason m).board.haltLatch = true := by
  rw [State.postReason_board_haltLatch]
  cases he : s.board.haltSet.isEmpty with
  | true => simp
  | false => simp [h he]

/-- One door reached. -/
theorem State.doorApplied_reached (s : State) (d : Door) : State.DoorsReached [d] s (s.doorApplied d) := by
  have records : ∀ r, r = s.appliedDoor d → ∀ d', (s.doors.records.set d r).get d'
      = if d' ∈ [d] then s.appliedDoor d' else s.door d' := by
    rintro r rfl d'
    by_cases e : d' = d
    · subst e
      simp
    · simp [e, PerDoor.get_set_of_ne, State.door]
  have members : ∀ (x : ReasonSet) b, b = s.appliedMember d (x.has (.door d)) → ∀ d', (x.put (.door d) b).has (.door d')
      = if d' ∈ [d] then s.appliedMember d' (x.has (.door d')) else x.has (.door d') := by
    rintro x b rfl d'
    by_cases e : d' = d
    · subst e
      simp
    · simp [e, ReasonSet.has_put_of_ne]
  have kept : ∀ x : ReasonSet, s.appliedMember d (x.has (.door d)) = x.has (.door d) → ∀ d', x.has (.door d')
      = if d' ∈ [d] then s.appliedMember d' (x.has (.door d')) else x.has (.door d') := by
    intro x hx d'
    by_cases e : d' = d
    · subst e
      simp [hx]
    · simp [e]
  unfold State.doorApplied
  simp only
  split
  · rename_i hf
    have member : ∀ b, s.appliedMember d b = false := fun b => by simp [State.appliedMember, hf]
    refine ⟨rfl, records _ (by simp [State.appliedDoor, hf]), members _ _ (member _).symm, members _ _ (member _).symm,
      fun hl he => hl (ReasonSet.isEmpty_put_false he), fun h => h, fun _ d' hd' hfit => ?_⟩
    obtain rfl := List.mem_singleton.mp hd'
    simp [State.fitted] at hfit
    simp [hfit] at hf
  · rename_i hf
    split
    · rename_i ha
      have member : ∀ b, s.appliedMember d b = true := fun b => by simp [State.appliedMember, hf, ha]
      exact ⟨rfl, records _ (by simp [State.appliedDoor, hf, ha]), members _ _ (member _).symm, members _ _ (member _).symm,
        fun hl _ => State.postReason_latch (s := s.setDoor d _) hl _, fun h => by simp [h],
        fun hl _ _ _ _ => State.postReason_latch (s := s.setDoor d _) hl _⟩
    · rename_i ha
      have member : ∀ b, s.appliedMember d b = b := fun b => by simp [State.appliedMember, hf, ha]
      refine ⟨rfl, records _ (by simp [State.appliedDoor, hf, ha]), kept _ (member _), kept _ (member _), fun h => h,
        fun h => h, fun _ d' hd' _ habs => ?_⟩
      obtain rfl := List.mem_singleton.mp hd'
      exact absurd habs ha

/-- A door reached, and then some others. -/
theorem State.DoorsReached.cons {d : Door} {ds : List Door} {s t u : State} (h : State.DoorsReached [d] s t)
    (h' : State.DoorsReached ds t u) (hd : d ∉ ds) : State.DoorsReached (d :: ds) s u := by
  have tables : t.tables = s.tables := by rw [h.frame]
  have params := State.doorParams_congr tables
  have same : ∀ d' ∈ ds, t.door d' = s.door d' := fun d' hd' => by
    have ne : d' ≠ d := fun e => hd (e ▸ hd')
    rw [h.record, if_neg (by simpa using ne)]
  have applied : ∀ d' ∈ ds, t.appliedDoor d' = s.appliedDoor d' := fun d' hd' => by
    simp only [State.appliedDoor, params, same d' hd']
  have member : ∀ d' ∈ ds, ∀ b, t.appliedMember d' b = s.appliedMember d' b := fun d' hd' b => by
    simp only [State.appliedMember, params, same d' hd']
  refine ⟨?_, fun d' => ?_, fun d' => ?_, fun d' => ?_, fun hl => h'.latched (h.latched hl), fun hr => h'.raised (h.raised hr),
    fun hl d' hd' hfit habs => ?_⟩
  · rw [h'.frame, h.frame]
  · rw [h'.record, h.record]
    by_cases hm : d' ∈ ds
    · simp [hm, applied d' hm]
    · simp [hm]
  · rw [h'.halt, h.halt]
    by_cases hm : d' ∈ ds
    · have ne : d' ≠ d := fun e => hd (e ▸ hm)
      simp [hm, member d' hm, ne]
    · simp [hm]
  · rw [h'.inhibit, h.inhibit]
    by_cases hm : d' ∈ ds
    · have ne : d' ≠ d := fun e => hd (e ▸ hm)
      simp [hm, member d' hm, ne]
    · simp [hm]
  · rcases List.mem_cons.mp hd' with rfl | hm
    · exact h'.raised (h.posted hl d' (by simp) hfit habs)
    · exact h'.posted (h.latched hl) d' hm (by rw [State.fitted_congr tables]; exact hfit) (by rw [same d' hm]; exact habs)

theorem State.DoorsReached.nil (s : State) : State.DoorsReached [] s s :=
  ⟨rfl, fun _ => by simp, fun _ => by simp, fun _ => by simp, fun h => h, fun h => h, fun _ _ h => absurd h List.not_mem_nil⟩

/-- The application of the DOOR table reaches every door (R165). -/
theorem State.doorsApplied_reached (s : State) : State.DoorsReached PerDoor.all s s.doorsApplied := by
  have fold : ∀ (ds : List Door) (t : State), ds.Nodup → State.DoorsReached ds t (ds.foldl (fun u d => u.doorApplied d) t) := by
    intro ds
    induction ds with
    | nil => exact fun t _ => .nil t
    | cons d ds ih =>
      intro t hn
      obtain ⟨hd, hn⟩ := List.nodup_cons.mp hn
      exact (t.doorApplied_reached d).cons (ih _ hn) hd
  exact fold PerDoor.all s (by decide)

end Sys2Proof.Machine
end

section
/-! What an application of the pending set leaves at the blocks (R181). -/

namespace Sys2Proof.Machine

/-! ## Corner records -/

/-- A corner record without samples, timer or slow flag. -/
structure CornerRecord.Blank (r : CornerRecord) : Prop where
  emptied : r = { r with ring := [], average := none, inBand := false, slow := false, activeSince := none }
  still : r.mode.correcting = false

/-- A corner record after its height was lost (R127). -/
def CornerRecord.lost (r : CornerRecord) : CornerRecord :=
  { r.clearRing with mode := .fault, slow := false, activeSince := none }

/-- A corner record after an application of the CORNER table (R133). -/
def CornerRecord.applied (r : CornerRecord) (p : CornerParams) : CornerRecord :=
  { r.clearRing with mode := .idle, slow := false, activeSince := none, target := targetAfterApplication p r.target }

/-- A change of target leaves nothing to clear in a blank record (R128, R130). -/
theorem CornerRecord.Blank.retarget {r : CornerRecord} (h : r.Blank) (deadline : Nat) : r.retarget deadline = r := by
  obtain ⟨he, hs⟩ := h
  rw [he]
  simp [CornerRecord.retarget, CornerRecord.clearRing, hs]

@[simp] theorem State.mapCorners_get (s : State) (f : Corner → CornerRecord → CornerRecord) (c : Corner) :
    (s.mapCorners f).levels.corners.get c = f c (s.levels.corners.get c) := PerCorner.get_ofFn _ _

theorem State.settleSlow_levels (s : State) : s.settleSlow.levels = s.levels := s.settleSlow_changes.get .levels

theorem State.cornerApplied_get (s : State) (c : Corner) :
    s.cornerApplied.levels.corners.get c = (s.levels.corners.get c).applied (s.cornerParams c) := PerCorner.get_ofFn _ _

theorem State.clearRings_get (s : State) (c : Corner) :
    s.clearRings.levels.corners.get c = (s.levels.corners.get c).clearRing := PerCorner.get_ofFn _ _

/-- A kerb target request at a blank corner gives it its target alone (R129). -/
theorem State.kerbRequest_blank {s : State} {c : Corner} (h : (s.levels.corners.get c).Blank) (q : KerbRequest) :
    (s.kerbRequest q).levels.corners.get c = { s.levels.corners.get c with
      target := if (s.cornerParams c).kerb then s.requestedTarget c q else (s.levels.corners.get c).target } := by
  rw [State.kerbRequest, State.settleSlow_levels, State.mapCorners_get]
  cases hk : (s.cornerParams c).kerb with
  | false => simp
  | true =>
    by_cases ht : (s.levels.corners.get c).target = s.requestedTarget c q
    · rw [if_neg fun h => h.2 ht, if_pos rfl, ← ht]
    · rw [if_pos ⟨rfl, ht⟩, h.retarget, if_pos rfl]

/-- A loss notice for a height leaves its corner in FAULT with nothing kept, and the others as they stand (R127). -/
theorem State.heightLoss_levels (s : State) (c : Corner) :
    (s.heightLoss c).levels.corners = s.levels.corners.set c (s.levels.corners.get c).lost
      ∧ (s.heightLoss c).levels.ride = s.levels.ride := by
  have valves : ∀ (t : State) (a : Axle) (l r : ValveCommand),
      (t.offerValves a l r).levels.corners = t.levels.corners ∧ (t.offerValves a l r).levels.ride = t.levels.ride := by
    intro t a l r
    rw [State.offerValves_frame]
    exact ⟨rfl, rfl⟩
  have base : ∀ (t : State) (b : Prop) [Decidable b] (f : LevelFaults → LevelFaults),
      (if b then t.latchLevel f else t).levels.corners = t.levels.corners
        ∧ (if b then t.latchLevel f else t).levels.ride = t.levels.ride := by
    intro t b _ f
    split <;> exact ⟨rfl, rfl⟩
  simp only [State.heightLoss]
  split
  · obtain ⟨hc, hr⟩ := valves _ _ _ _
    rw [hc, hr, (base _ _ _).1, (base _ _ _).2, State.settleSlow_levels]
    exact ⟨rfl, rfl⟩
  · rw [(base _ _ _).1, (base _ _ _).2, State.settleSlow_levels]
    exact ⟨rfl, rfl⟩

/-! ## Track and coverage -/

/-- Over an empty track no axle is covered, so an axle in FOLLOW becomes CENTRE (R66). -/
theorem State.checkCoverages_of_empty {s : State} (h : s.track.marks = []) : s.checkCoverages = { s with
    steering := { s.steering with rear := PerRear.ofFn fun r => { s.steering.rear.get r with
      mode := if (s.steering.rear.get r).mode = .follow then .centre else (s.steering.rear.get r).mode } } } := by
  have uncovered : ∀ (t : State) r, t.track.marks = [] → t.covered r = false := by
    intro t r ht
    unfold State.covered
    rw [ht]
    cases t.track.lastOdo <;> rfl
  have one : ∀ (t : State) r, t.track.marks = [] → t.checkCoverage r = t.setRear r { t.steering.rear.get r with
      mode := if (t.steering.rear.get r).mode = .follow then .centre else (t.steering.rear.get r).mode } := by
    intro t r ht
    simp only [State.checkCoverage, uncovered t r ht]
    split
    · simp_all
    · rename_i hm
      have same : ∀ x : PerRear RearRecord, x.set r (x.get r) = x := fun x => by cases r <;> rfl
      have unmoved : (t.steering.rear.get r).mode ≠ .follow := fun e => hm ⟨e, rfl⟩
      simp only [if_neg unmoved, State.setRear, same]
  rw [State.checkCoverages, one s .a3 h]
  exact one (s.setRear .a3 _) .a4 h

end Sys2Proof.Machine
end

section
/-! The effects of an application before those of the FIT (R52, R65, R66, R68, R133, R165). -/

namespace Sys2Proof.Machine

/-- The speed-limit map before the FIT's effects: LEVEL_SLOW withdrawn at a CORNER table, and the posted limits replaced at
CONSTANTS (R52, R133). -/
def State.appliedLimits (s : State) (set : PerTable Bool) : PerKind (Option Nat) := PerKind.ofFn fun k =>
  if k = .levelSlow ∧ set.corner = true then none
  else if set.constants then (s.board.limits.get k).map fun _ => s.paramNat k.param
  else s.board.limits.get k

/-- Whether an application empties the track queue (R65). -/
def State.movesTrack (s : State) (old : ActiveTables) (set : PerTable Bool) : Bool :=
  (set.constants || set.axle)
    && (changed pitchOf old.constants s.tables.active.constants || changed pathsOf old.axle s.tables.active.axle)

theorem State.doIf_doorsApplied_frame (s : State) (b : Bool) : s.doIf b State.doorsApplied = { s with
    doors := (s.doIf b State.doorsApplied).doors, board := (s.doIf b State.doorsApplied).board } := by
  cases b with
  | false => rfl
  | true =>
    show s.doorsApplied = { s with doors := s.doorsApplied.doors, board := s.doorsApplied.board }
    generalize hu : s.doorsApplied = u
    have frame := s.doorsApplied_reached.frame
    rw [hu] at frame
    rw [frame]

theorem State.doIf_board_limits_doorsApplied (s : State) (b : Bool) :
    (s.doIf b State.doorsApplied).board.limits = s.board.limits := by
  cases b with
  | false => rfl
  | true =>
    show s.doorsApplied.board.limits = s.board.limits
    rw [s.doorsApplied_reached.frame]

theorem State.doIf_cornerApplied (s : State) (b : Bool) : s.doIf b State.cornerApplied = { s with
    levels := { s.levels with corners := PerCorner.ofFn fun c =>
      if b then (s.levels.corners.get c).applied (s.cornerParams c) else s.levels.corners.get c }
    board := { s.board with limits := if b then s.board.limits.set .levelSlow none else s.board.limits } } := by
  cases b <;> rfl

theorem State.doIf_replaceLimits (s : State) (b : Bool) : s.doIf b State.replaceLimits = { s with
    board := { s.board with limits := if b then
      (PerKind.ofFn fun k => (s.board.limits.get k).map fun _ => s.paramNat k.param) else s.board.limits } } := by
  cases b <;> rfl

theorem State.doIf_clearLastAngles (s : State) (b : Bool) : s.doIf b State.clearLastAngles = { s with
    steering := { s.steering with rear := PerRear.ofFn fun r => { s.steering.rear.get r with
      lastAngle := if b then 0 else (s.steering.rear.get r).lastAngle } } } := by
  cases b <;> rfl

theorem State.doIf_trackApplied (s : State) (old : ActiveTables) (set : PerTable Bool) :
    (s.doIf (set.constants || set.axle) fun s => s.trackApplied old) = { s with
      track := { s.track with marks := if s.movesTrack old set then [] else s.track.marks }
      steering := { s.steering with rear := PerRear.ofFn fun r => { s.steering.rear.get r with
        mode := if s.movesTrack old set ∧ (s.steering.rear.get r).mode = .follow then .centre
          else (s.steering.rear.get r).mode } } } := by
  have moved : (s.doIf (set.constants || set.axle) fun s => s.trackApplied old)
      = s.doIf (s.movesTrack old set) fun s => ({ s with track := { s.track with marks := [] } }).checkCoverages := by
    unfold State.doIf State.trackApplied State.movesTrack
    cases set.constants || set.axle with
    | false => rfl
    | true => rw [Bool.true_and, if_pos rfl]
  rw [moved]
  cases s.movesTrack old set with
  | false => simp only [State.doIf, Bool.false_eq_true, false_and, if_false]; rfl
  | true =>
    simp only [State.doIf, if_true, true_and]
    rw [State.checkCoverages_of_empty rfl]

/-- An application before the FIT's effects, block by block. -/
theorem State.beforeFit_eq (s : State) (old : ActiveTables) (set : PerTable Bool) : s.beforeFit old set = { s with
    doors := (s.doIf set.door State.doorsApplied).doors
    board := { (s.doIf set.door State.doorsApplied).board with limits := s.appliedLimits set }
    levels := { s.levels with corners := PerCorner.ofFn fun c =>
      if set.corner then (s.levels.corners.get c).applied (s.cornerParams c) else s.levels.corners.get c }
    track := { s.track with marks := if s.movesTrack old set then [] else s.track.marks }
    steering := { s.steering with rear := PerRear.ofFn fun r => {
      mode := if s.movesTrack old set ∧ (s.steering.rear.get r).mode = .follow then .centre
        else (s.steering.rear.get r).mode
      lastAngle := if holdsMotion set then 0 else (s.steering.rear.get r).lastAngle } } } := by
  have frame := s.doIf_doorsApplied_frame set.door
  have limits := s.doIf_board_limits_doorsApplied set.door
  have map : (PerKind.ofFn fun k => ((s.board.limits.set .levelSlow none).get k).map fun _ => s.paramNat k.param)
      = PerKind.ofFn fun k => if k = .levelSlow then none
        else (s.board.limits.get k).map fun _ => s.paramNat k.param := rfl
  have applied : (if set.constants then PerKind.ofFn fun k =>
        ((if set.corner then s.board.limits.set .levelSlow none else s.board.limits).get k).map fun _ => s.paramNat k.param
      else if set.corner then s.board.limits.set .levelSlow none else s.board.limits) = s.appliedLimits set := by
    unfold State.appliedLimits
    cases set.constants <;> cases set.corner <;> simp [map] <;> rfl
  rw [State.beforeFit, State.doIf_trackApplied, State.doIf_clearLastAngles, State.doIf_replaceLimits,
    State.doIf_cornerApplied]
  generalize hD : s.doIf set.door State.doorsApplied = D at frame limits ⊢
  generalize D.doors = doors at frame ⊢
  generalize D.board = board at frame limits ⊢
  rw [frame, ← applied, ← limits]
  rfl

end Sys2Proof.Machine
end

section
/-! The loss notices at an application of the FIT (R31, R110, R127, R163, R165). -/

namespace Sys2Proof.Machine

/-! ## The track's own condition -/

theorem changed_iff {α β : Type} [DecidableEq β] (f : α → β) (old new : Option α) :
    changed f old new = true ↔ ∃ x y, old = some x ∧ new = some y ∧ f x ≠ f y := by
  cases old <;> cases new <;> simp [changed]

theorem changed_self {α β : Type} [DecidableEq β] (f : α → β) (x : Option α) : changed f x x = false := by
  cases x <;> simp [changed]

/-- The track queue is emptied where P, L3 or L4 differs from an earlier copy (R65). -/
theorem State.movesTrack_iff (s : State) : State.movesTrack { s with tables := s.tables.apply } s.tables.active s.tables.waiting
    = true ↔ s.tables.active.trackChanged s.tables.apply.active := by
  have constants : changed pitchOf s.tables.active.constants s.tables.apply.active.constants = true →
      s.tables.waiting.constants = true := by
    intro h
    by_contra hw
    simp [TableStore.apply, copyTables, hw, changed_self] at h
  have axle : changed pathsOf s.tables.active.axle s.tables.apply.active.axle = true → s.tables.waiting.axle = true := by
    intro h
    by_contra hw
    simp [TableStore.apply, copyTables, hw, changed_self] at h
  have paths : ∀ x y : Vector AxleParams 4, pathsOf x ≠ pathsOf y ↔
      x[axleIndex .a3].path ≠ y[axleIndex .a3].path ∨ x[axleIndex .a4].path ≠ y[axleIndex .a4].path := by
    intro x y
    rw [pathsOf, pathsOf, Ne, Prod.mk.injEq, not_and_or]
  rw [State.movesTrack, ActiveTables.trackChanged, Bool.and_eq_true, Bool.or_eq_true, Bool.or_eq_true]
  rw [and_iff_right_of_imp fun h => h.imp constants axle, changed_iff, changed_iff]
  simp only [paths]
  rfl

/-! ## What loss notices leave of the doors and the two reason sets -/

/-- Loss notices at an application of the FIT, as the doors and their members see them: no fault but EGRESS_DROP and no event is
latched, an ABSENT door stands as it is, and no other becomes ABSENT or leaves UNPROVEN (R163, R165). -/
structure State.DoorsQuieted (s t : State) : Prop where
  faults : t.doors.faults = { s.doors.faults with egressDrop := t.doors.faults.egressDrop }
  latch : ∀ d, (t.door d).latch = (s.door d).latch
  absent : ∀ d, (s.door d).state = .absent → t.door d = s.door d
    ∧ t.board.haltSet.has (.door d) = s.board.haltSet.has (.door d)
    ∧ t.board.driveInhibit.has (.door d) = s.board.driveInhibit.has (.door d)
  present : ∀ d, (s.door d).state ≠ .absent → (t.door d).state ≠ .absent
  unproven : ∀ d, (s.door d).state = .unproven → (t.door d).state = .unproven
  raised : s.board.haltLatch = true → t.board.haltLatch = true

namespace State.DoorsQuieted

theorem refl (s : State) : DoorsQuieted s s :=
  ⟨rfl, fun _ => rfl, fun _ _ => ⟨rfl, rfl, rfl⟩, fun _ h => h, fun _ h => h, fun h => h⟩

theorem trans {s t u : State} (h : DoorsQuieted s t) (h' : DoorsQuieted t u) : DoorsQuieted s u where
  faults := by rw [h'.faults, h.faults]
  latch d := (h'.latch d).trans (h.latch d)
  absent d hd := by
    obtain ⟨record, halt, inhibit⟩ := h.absent d hd
    obtain ⟨record', halt', inhibit'⟩ := h'.absent d (by rw [record, hd])
    exact ⟨record'.trans record, halt'.trans halt, inhibit'.trans inhibit⟩
  present d hd := h'.present d (h.present d hd)
  unproven d hd := h'.unproven d (h.unproven d hd)
  raised hr := h'.raised (h.raised hr)

/-- Where the doors and the reason sets stand, and with them the halt latch. -/
theorem of_same {s t : State} (hd : t.doors = s.doors) (hh : t.board.haltSet = s.board.haltSet)
    (hi : t.board.driveInhibit = s.board.driveInhibit) (hl : t.board.haltLatch = s.board.haltLatch) : DoorsQuieted s t := by
  have door : ∀ d, t.door d = s.door d := fun d => by rw [State.door, State.door, hd]
  exact ⟨by rw [hd], fun d => by rw [door], fun d _ => ⟨door d, by rw [hh], by rw [hi]⟩, fun d h => by rwa [door],
    fun d h => by rwa [door], fun h => by rwa [hl]⟩

end State.DoorsQuieted

/-- The record of a door that has lost its position, no command offered yet (R163). -/
def DoorRecord.lost (r : DoorRecord) : DoorRecord :=
  { r with state := .unproven, armed := false, armTimer := none, lockProof := none, releaseHold := none
           candidate := none, settled := none, debounce := 0 }

/-- A loss notice at an application of the FIT, with its HOLD admitted or refused (R163, R165). -/
theorem State.losePosition_fit {s : State} {d : Door} (h : (s.door d).state ≠ .absent) : s.losePosition d true =
    (State.postReason (s.setDoor d (s.door d).lost) (.door d)).offerDoor d .hold := by
  have posted : (s.setDoor d (s.door d).lost).syncReason d = State.postReason (s.setDoor d (s.door d).lost) (.door d) := by
    have door : (s.setDoor d (s.door d).lost).door d = (s.door d).lost := PerDoor.get_set_self _ _ _
    rw [State.syncReason, door, if_neg (by simp [DoorRecord.lost])]
  rw [← posted]
  simp only [State.losePosition, if_neg h, Bool.not_true, Bool.false_eq_true, and_false, if_false]
  rfl

/-- A command offered for a door changes its record's command and timers, the ports and EGRESS_DROP (R156). -/
theorem State.offerDoor_frame (s : State) (d : Door) (c : DoorCommand) :
    ∃ ports r b, s.offerDoor d c = { s with ports := ports, doors := {
        records := s.doors.records.set d r, faults := { s.doors.faults with egressDrop := b } } }
      ∧ r.state = (s.door d).state ∧ r.latch = (s.door d).latch := by
  unfold State.offerDoor
  split
  · rename_i t ht
    rw [State.offerSet_frame ht]
    exact ⟨_, _, _, rfl, rfl, rfl⟩
  · refine ⟨s.ports, s.door d, true, ?_, rfl, rfl⟩
    rw [State.door, PerDoor.set_get_self]
    rfl

/-- What the loss of its position leaves of a door that is not ABSENT and of the board, at an application of the FIT (R163,
R165). -/
theorem State.losePosition_fit_left {s : State} {d : Door} (h : (s.door d).state ≠ .absent) :
    ∃ r b, (s.losePosition d true).doors = {
        records := s.doors.records.set d r, faults := { s.doors.faults with egressDrop := b } }
      ∧ r.state = .unproven ∧ r.latch = (s.door d).latch
      ∧ (s.losePosition d true).board = (s.postReason (.door d)).board := by
  obtain ⟨ports, r, b, he, hs, hl⟩ :=
    State.offerDoor_frame (State.postReason (s.setDoor d (s.door d).lost) (.door d)) d .hold
  have door : (State.postReason (s.setDoor d (s.door d).lost) (.door d)).door d = (s.door d).lost :=
    PerDoor.get_set_self _ _ _
  have records : (s.doors.records.set d (s.door d).lost).set d r = s.doors.records.set d r := by
    cases d <;> rfl
  rw [door] at hs hl
  rw [State.losePosition_fit h, he]
  exact ⟨r, b, by rw [← records]; rfl, hs, hl, rfl⟩

theorem State.DoorsQuieted.losePosition (s : State) (d : Door) : State.DoorsQuieted s (s.losePosition d true) := by
  by_cases h : (s.door d).state = .absent
  · have same : s.losePosition d true = s := if_pos h
    rw [same]
    exact .refl s
  · obtain ⟨r, b, hd, hs, hl, hb⟩ := State.losePosition_fit_left h
    have self : (s.losePosition d true).door d = r := by rw [State.door, hd, PerDoor.get_set_self]
    have other : ∀ d', d' ≠ d → (s.losePosition d true).door d' = s.door d' := fun d' hne => by
      rw [State.door, hd, PerDoor.get_set_of_ne _ _ _ _ hne, State.door]
    have ne : ∀ d', (s.door d').state = .absent → d' ≠ d := fun d' ha e => h (e ▸ ha)
    refine ⟨by rw [hd], fun d' => ?_, fun d' ha => ⟨other d' (ne d' ha), ?_, ?_⟩, fun d' hp => ?_, fun d' hu => ?_, fun hr => ?_⟩
    · by_cases e : d' = d
      · rw [e, self, hl]
      · rw [other d' e]
    · rw [hb, State.postReason_board_haltSet, ReasonSet.has_put_of_ne]
      simpa using ne d' ha
    · rw [hb, State.postReason_board_driveInhibit, ReasonSet.has_put_of_ne]
      simpa using ne d' ha
    · by_cases e : d' = d
      · rw [e, self, hs]
        decide
      · rwa [other d' e]
    · by_cases e : d' = d
      · rw [e, self, hs]
      · rwa [other d' e]
    · rw [hb, State.postReason_board_haltLatch, hr, Bool.true_or]

/-- A loss notice for a height writes no more of the board than the speed-limit map (R127). -/
theorem State.heightLoss_board (s : State) (c : Corner) :
    (s.heightLoss c).board = { s.board with limits := (s.heightLoss c).board.limits } := by
  have settled : ∀ t : State, t.settleSlow.board = { t.board with limits := t.settleSlow.board.limits } := by
    intro t
    unfold State.settleSlow
    split <;> rfl
  have latched : ∀ (t : State) (b : Prop) [Decidable b] (f : LevelFaults → LevelFaults),
      (if b then t.latchLevel f else t).board = t.board := by
    intro t b _ f
    split <;> rfl
  simp only [State.heightLoss]
  split
  · rw [State.offerValves_frame]
    exact (latched _ _ _).trans ((settled _).trans (by rw [latched]; rfl))
  · exact (latched _ _ _).trans ((settled _).trans (by rw [latched]; rfl))

/-- The doors and the reason sets after any loss notice at an application of the FIT (R165). -/
theorem State.DoorsQuieted.takeLoss (s : State) (l : Loss) : State.DoorsQuieted s (s.takeLoss true l) := by
  cases l with
  | height c =>
    have board := s.heightLoss_board c
    exact .of_same ((s.heightLoss_changes c).get .doors) (by simp only [State.takeLoss]; rw [board])
      (by simp only [State.takeLoss]; rw [board]) (by simp only [State.takeLoss]; rw [board])
  | position d => exact .losePosition s d
  | brakeEcho a =>
    have board : ∀ t : State, t.brakeLimit.board = { t.board with limits := t.brakeLimit.board.limits } := by
      intro t
      unfold State.brakeLimit
      split <;> rfl
    refine .of_same (s.recomputeHalt_changes.get .doors) ?_ ?_ ?_
    all_goals
      simp only [State.takeLoss, State.recomputeHalt]
      rw [board]

/-! ## What loss notices leave, all of them taken -/

theorem mem_lossesOf {lost : SlotId → Bool} {l : Loss} : l ∈ lossesOf lost ↔ ∃ i, lost i = true ∧ lossOf i = some l := by
  simp [lossesOf, List.mem_filterMap, List.mem_filter]

/-- A corner after some loss notices: in FAULT with nothing kept where its height was among them (R127). -/
theorem State.run_takeLoss_corner (b : Bool) (c : Corner) {s : State} {order : List (Loss × Nat)} :
    (s.run (fun x l => x.takeLoss b l) order).levels.corners.get c =
      if Loss.height c ∈ order.map Prod.fst then (s.levels.corners.get c).lost else s.levels.corners.get c := by
  induction order generalizing s with
  | nil => rfl
  | cons x order ih =>
    obtain ⟨l, n⟩ := x
    have first : ∀ t : State, (t.takeLoss b l).levels.corners.get c =
        if l = .height c then (t.levels.corners.get c).lost else t.levels.corners.get c := by
      intro t
      cases l with
      | height c' =>
        simp only [State.takeLoss, (t.heightLoss_levels c').1]
        by_cases e : c' = c
        · simp [e]
        · rw [PerCorner.get_set_of_ne _ _ _ _ (Ne.symm e), if_neg (by simpa using e)]
      | position d =>
        rw [if_neg nofun]
        exact congrArg (·.corners.get c) ((t.losePosition_changes d b).get .levels)
      | brakeEcho a =>
        rw [if_neg nofun]
        exact congrArg (·.corners.get c) (t.recomputeHalt_changes.get .levels)
    have taken : s.run (fun x l => x.takeLoss b l) ((l, n) :: order)
        = State.run (fun x l => x.takeLoss b l) (State.takeLoss { s with orderCount := n } b l) order := rfl
    rw [taken, ih, first]
    by_cases e : l = .height c
    · simp only [e, List.map_cons, List.mem_cons, true_or, if_true]
      split <;> rfl
    · simp only [if_neg e, List.map_cons, List.mem_cons, Ne.symm e, false_or]

theorem State.takeLoss_ride (s : State) (b : Bool) (l : Loss) : (s.takeLoss b l).levels.ride = s.levels.ride := by
  cases l with
  | height c => exact (s.heightLoss_levels c).2
  | position d => exact congrArg Levels.ride ((s.losePosition_changes d b).get .levels)
  | brakeEcho a => exact congrArg Levels.ride (s.recomputeHalt_changes.get .levels)

end Sys2Proof.Machine
end

section
/-! What an application of the FIT leaves after its loss notices (R24, R113, R127, R128, R165). -/

namespace Sys2Proof.Machine

/-- The loss notices of an application of the FIT, each taken once (R31). -/
theorem State.fitApplied_takes (s : State) : s.fitCleared.Takes (fun x l => x.takeLoss true l)
    (lossesOf fun i => decide (s.slots[i].validity = .valid)) s.fitApplied := State.takeLosses_takes _ _ _

/-- An application of the FIT, as corners, doors and HALT_CONFIRMED see it. -/
structure State.FitLost (s t : State) : Prop where
  corner : ∀ c, t.levels.corners.get c =
    if s.slots[slotHeight c].validity = .valid then (s.levels.corners.get c).lost else (s.levels.corners.get c).clearRing
  ride : t.levels.ride = s.levels.ride
  doors : State.DoorsQuieted s t
  unproven : ∀ d, s.slots[slotDoorPosition d].validity = .valid → (s.door d).state ≠ .absent → (t.door d).state = .unproven
  confirmed : (∃ a, s.slots[slotBrakeEcho a].validity = .valid) → t.board.haltConfirmed = false
  sync : t.board.limits.sync = if s.path.cycle.syncPosted then none else s.board.limits.sync

/-- No slot counts as VALID and no echo record stands in DISAGREE. -/
structure State.Silent (s : State) : Prop where
  slots : s.slots = Vector.replicate 64 .reset
  echoes : s.echoes.records = PerEcho.const .reset

theorem State.Silent.congr {s t : State} (h : s.Silent) (hs : t.slots = s.slots) (he : t.echoes = s.echoes) : t.Silent :=
  ⟨hs.trans h.slots, by rw [he, h.echoes]⟩

theorem State.Silent.takeLoss {s : State} (h : s.Silent) (b : Bool) (l : Loss) : (s.takeLoss b l).Silent :=
  h.congr ((s.takeLoss_changes b l).get .slots) ((s.takeLoss_changes b l).get .echoes)

/-- Without an echo the halt brake is not confirmed (R111). -/
theorem State.Silent.haltVerdict {s : State} (h : s.Silent) : s.haltVerdict = false := by
  have unread : s.echoPasses .a1 = false := by
    simp [State.echoPasses, State.readInt, State.readSlot, h.slots, SignalSlot.reset]
  have agrees : s.disagrees (.brake .a1) = false := by
    simp [State.disagrees, h.echoes, EchoRecord.reset]
  rw [Bool.eq_false_iff]
  intro hv
  simp only [State.haltVerdict, Bool.and_eq_true, List.all_eq_true] at hv
  have first := hv.2 .a1 (PerAxle.mem_all _)
  rw [unread, agrees] at first
  cases first

theorem State.recomputeHalt_confirmed (s : State) : s.recomputeHalt.board.haltConfirmed = s.haltVerdict := by
  simp only [State.recomputeHalt]
  rw [(State.BoardKept.brakeLimit _).confirmed]

/-- Once HALT_CONFIRMED is gone, no loss notice brings it back while nothing is received (R110, R111). -/
theorem State.Silent.takeLoss_confirmed {s : State} (h : s.Silent) (b : Bool) (l : Loss)
    (hc : s.board.haltConfirmed = false) : (s.takeLoss b l).board.haltConfirmed = false := by
  cases l with
  | height c => exact (State.BoardKept.heightLoss s c).confirmed.trans hc
  | position d => exact (State.BoardKept.losePosition s d b).confirmed.trans hc
  | brakeEcho a => exact s.recomputeHalt_confirmed.trans h.haltVerdict

theorem State.DoorsQuieted.run {s : State} {order : List (Loss × Nat)} :
    State.DoorsQuieted s (s.run (fun x l => x.takeLoss true l) order) :=
  State.run_induction (P := State.DoorsQuieted s) (es := order.map Prod.fst)
    (fun _ _ h => h.trans (.of_same rfl rfl rfl rfl)) (fun l _ _ h => h.trans (.takeLoss _ l))
    (fun _ hx => List.mem_map_of_mem hx) (.refl s)

/-- What the FIT's application leaves (R24, R110, R127, R165). -/
theorem State.fitApplied_lost (s : State) : s.FitLost s.fitApplied := by
  have frame := s.fitCleared_eq
  have takes := s.fitApplied_takes
  obtain ⟨order, perm, he⟩ := takes.eq_run
  have lost : ∀ l, l ∈ order.map Prod.fst ↔ ∃ i : SlotId, s.slots[i].validity = .valid ∧ lossOf i = some l := fun l => by
    rw [perm.mem_iff, mem_lossesOf]
    simp
  have cleared : State.DoorsQuieted s s.fitCleared := by
    refine .of_same ?_ ?_ ?_ ?_
    all_goals rw [frame]
  refine ⟨fun c => ?_, ?_, ?_, fun d hv hp => ?_, fun ⟨a, hv⟩ => ?_, ?_⟩
  · have corner : s.fitCleared.levels.corners.get c = (s.levels.corners.get c).clearRing := by
      rw [frame, State.clearRings_get]
    have mem : Loss.height c ∈ order.map Prod.fst ↔ s.slots[slotHeight c].validity = .valid := by
      simp [lost, lossOf_eq_height]
    rw [he, State.run_takeLoss_corner, corner]
    simp only [mem]
    rfl
  · have ride : s.fitCleared.levels.ride = s.levels.ride := by
      rw [frame]
      rfl
    exact takes.induction (P := fun t => t.levels.ride = s.levels.ride) (fun _ _ h => h)
      (fun l _ t h => (t.takeLoss_ride true l).trans h) ride
  · rw [he]
    exact cleared.trans .run
  · have mem : Loss.position d ∈ lossesOf fun i => decide (s.slots[i].validity = .valid) := by
      rw [mem_lossesOf]
      exact ⟨slotDoorPosition d, by simpa using hv, (lossOf_eq_position _ _).mpr rfl⟩
    obtain ⟨before, after, n, -, -, ht⟩ := takes.around (List.perm_cons_erase mem)
    set u : State := { s.fitCleared.run (fun x l => x.takeLoss true l) before with orderCount := n }
    have present : (u.door d).state ≠ .absent :=
      (cleared.trans .run).present d hp
    obtain ⟨r, b, hd, hs, -, -⟩ := State.losePosition_fit_left present
    have taken : ((u.takeLoss true (.position d)).door d).state = .unproven := by
      show ((u.losePosition d true).door d).state = _
      rw [State.door, hd, PerDoor.get_set_self, hs]
    rw [ht]
    exact State.DoorsQuieted.run.unproven d taken
  · have mem : Loss.brakeEcho a ∈ lossesOf fun i => decide (s.slots[i].validity = .valid) := by
      rw [mem_lossesOf]
      exact ⟨slotBrakeEcho a, by simpa using hv, (lossOf_eq_brakeEcho _ _).mpr rfl⟩
    obtain ⟨before, after, n, hb, ha, ht⟩ := takes.around (List.perm_cons_erase mem)
    have start : s.fitCleared.Silent := by
      rw [frame]
      exact ⟨rfl, rfl⟩
    have silent : (s.fitCleared.run (fun x l => x.takeLoss true l) before).Silent :=
      State.run_induction (P := State.Silent) (fun _ _ h => h.congr rfl rfl) (fun l _ _ h => h.takeLoss true l) hb start
    set u : State := { s.fitCleared.run (fun x l => x.takeLoss true l) before with orderCount := n }
    have here : u.Silent := silent.congr rfl rfl
    rw [ht]
    refine (State.run_induction (P := fun t => t.Silent ∧ t.board.haltConfirmed = false)
      (fun _ _ h => ⟨h.1.congr rfl rfl, h.2⟩) (fun l _ _ h => ⟨h.1.takeLoss true l, h.1.takeLoss_confirmed true l h.2⟩) ha
      ⟨here.takeLoss true _, ?_⟩).2
    exact u.recomputeHalt_confirmed.trans here.haltVerdict
  · have limits := State.takeLosses_limits s.fitCleared true s.validSlots .sync (by decide)
    rw [State.fitApplied_eq]
    refine limits.trans ?_
    rw [frame]
    rfl

end Sys2Proof.Machine
end

section
/-! What an application of the pending set leaves at the blocks (R181). -/

namespace Sys2Proof.Machine

/-! ## The kneel sequencer's request -/

/-- A kerb target request writes the corner records and the speed-limit map (R129). -/
theorem State.kerbRequest_frame (s : State) (q : KerbRequest) : s.kerbRequest q = { s with
    levels := { s.levels with corners := (s.kerbRequest q).levels.corners }
    board := { s.board with limits := (s.kerbRequest q).board.limits } } := by
  simp only [State.kerbRequest, State.settleSlow]
  split <;> rfl

/-- Where no corner is slow, LEVEL_SLOW is withdrawn (R130). -/
theorem State.settleSlow_of_none_slow {s : State} (h : ∀ c, (s.levels.corners.get c).slow = false) :
    s.settleSlow.board.limits.levelSlow = none := by
  have none : ¬(PerCorner.all.any fun c => (s.levels.corners.get c).slow) = true := by
    rw [PerCorner.any_iff]
    simp [h]
  rw [State.settleSlow, if_neg none]
  rfl

theorem CornerRecord.Blank.not_slow {r : CornerRecord} (h : r.Blank) : r.slow = false := by
  rw [h.emptied]

/-- A kerb target request that finds every corner blank withdraws LEVEL_SLOW (R130). -/
theorem State.kerbRequest_slow {s : State} (h : ∀ c, (s.levels.corners.get c).Blank) (q : KerbRequest) :
    (s.kerbRequest q).board.limits.levelSlow = none := by
  rw [State.kerbRequest]
  refine State.settleSlow_of_none_slow fun c => ?_
  have corner := State.kerbRequest_blank (h c) q
  rw [State.kerbRequest, State.settleSlow_levels] at corner
  rw [corner]
  exact (h c).not_slow

/-! ## An application in its parts -/

/-- The state in which a mark's application takes effect: the new tables, nothing else changed yet. -/
def State.withApplied (s : State) : State := { s with tables := s.tables.apply }

/-- The state before the FIT's effects. -/
def State.preFit (s : State) : State := s.withApplied.beforeFit s.tables.active s.tables.waiting

/-- The state after the FIT's effects. -/
def State.postFit (s : State) : State := s.preFit.doIf s.tables.waiting.fit State.fitApplied

theorem State.storeMark_applied {s : State} (h : s.markVerdict = .apply) :
    s.storeMark.1 = s.postFit.doIf s.tables.waiting.corner State.kneelCornerApplied := by
  rw [State.storeMark_of_apply h, State.applicationEffects_eq]
  rfl

/-- The doors, the reason sets and the halt latch after the DOOR table's part. -/
def State.doored (s : State) : State := s.withApplied.doIf s.tables.waiting.door State.doorsApplied

theorem State.preFit_eq (s : State) : s.preFit = { s with
    tables := s.tables.apply
    doors := s.doored.doors
    board := { s.doored.board with limits := s.withApplied.appliedLimits s.tables.waiting }
    levels := { s.levels with corners := PerCorner.ofFn fun c =>
      if s.tables.waiting.corner then (s.levels.corners.get c).applied (s.withApplied.cornerParams c)
      else s.levels.corners.get c }
    track := { s.track with marks :=
      if s.withApplied.movesTrack s.tables.active s.tables.waiting then [] else s.track.marks }
    steering := { s.steering with rear := PerRear.ofFn fun r => {
      mode := if s.withApplied.movesTrack s.tables.active s.tables.waiting ∧ (s.steering.rear.get r).mode = .follow then .centre
        else (s.steering.rear.get r).mode
      lastAngle := if holdsMotion s.tables.waiting then 0 else (s.steering.rear.get r).lastAngle } } } :=
  State.beforeFit_eq _ _ _

/-- What the FIT's effects leave of the state before them, whether they take place or not. -/
structure State.PostFit (s t : State) : Prop where
  changes : State.ChangesOnly [.slots, .path, .steering, .echoes, .board, .ports, .levels, .doors, .orderCount] s.preFit t
  steering : t.steering = { s.preFit.steering with limiter := t.steering.limiter }
  doors : State.DoorsQuieted s.preFit t
  ride : t.levels.ride = s.levels.ride
  corner : ∀ c, t.levels.corners.get c =
    if s.tables.waiting.fit then
      if s.slots[slotHeight c].validity = .valid then (s.preFit.levels.corners.get c).lost
      else (s.preFit.levels.corners.get c).clearRing
    else s.preFit.levels.corners.get c

theorem State.fitApplied_steering (s : State) : s.fitApplied.steering = { s.steering with limiter := none } := by
  have kept : s.fitApplied.steering = s.fitCleared.steering :=
    (State.takeLosses_changes s.fitCleared true s.validSlots).get .steering
  rw [kept, s.fitCleared_eq]

theorem State.preFit_slots (s : State) : s.preFit.slots = s.slots := by
  rw [State.preFit_eq]

theorem State.preFit_ride (s : State) : s.preFit.levels.ride = s.levels.ride := by
  rw [State.preFit_eq]

theorem State.preFit_corner (s : State) (c : Corner) : s.preFit.levels.corners.get c =
    if s.tables.waiting.corner then (s.levels.corners.get c).applied (s.withApplied.cornerParams c)
    else s.levels.corners.get c := by
  rw [State.preFit_eq]
  exact PerCorner.get_ofFn _ _

theorem State.postFit_left (s : State) : s.PostFit s.postFit := by
  cases hf : s.tables.waiting.fit with
  | false =>
    have same : s.postFit = s.preFit := by rw [State.postFit, hf, State.doIf, if_neg Bool.false_ne_true]
    rw [same]
    exact ⟨.refl _ _, rfl, .refl _, s.preFit_ride, fun c => by rw [hf, if_neg Bool.false_ne_true]⟩
  | true =>
    have fit : s.postFit = s.preFit.fitApplied := by rw [State.postFit, hf, State.doIf, if_pos rfl]
    have lost := s.preFit.fitApplied_lost
    rw [fit]
    refine ⟨s.preFit.fitApplied_changes, ?_, lost.doors, lost.ride.trans s.preFit_ride, fun c => ?_⟩
    · rw [State.fitApplied_steering]
    · rw [lost.corner, s.preFit_slots, if_pos hf]

/-! ## Doors -/

theorem State.doored_frame (s : State) :
    s.doored.doors = { s.doors with records := s.doored.doors.records }
      ∧ s.doored.board = { s.board with
          haltSet := { s.board.haltSet with doors := s.doored.board.haltSet.doors }
          driveInhibit := { s.board.driveInhibit with doors := s.doored.board.driveInhibit.doors }
          haltLatch := s.doored.board.haltLatch } := by
  unfold State.doored State.doIf
  split
  · generalize hu : s.withApplied.doorsApplied = u
    have frame := s.withApplied.doorsApplied_reached.frame
    rw [hu] at frame
    rw [frame]
    exact ⟨rfl, rfl⟩
  · exact ⟨rfl, rfl⟩

theorem State.doored_of_unasked {s : State} (h : s.tables.waiting.door = false) : s.doored = s.withApplied := by
  rw [State.doored, h]
  rfl

theorem State.doored_reached {s : State} (h : s.tables.waiting.door = true) :
    State.DoorsReached PerDoor.all s.withApplied s.doored := by
  rw [State.doored, h]
  exact s.withApplied.doorsApplied_reached

/-- The doors and their members where they are as the DOOR table's part leaves them (R43, R165). -/
theorem State.doored_left {s t : State} (h : s.tables.waiting.door = true) (ht : t.tables = s.tables.apply)
    (hd : t.doors = s.doored.doors) (hh : t.board.haltSet = s.doored.board.haltSet)
    (hi : t.board.driveInhibit = s.doored.board.driveInhibit) : s.DoorsLeft t := by
  have reached := State.doored_reached h
  have record : ∀ d, t.door d = s.withApplied.appliedDoor d := fun d => by
    rw [State.door, hd]
    exact (reached.record d).trans (if_pos (PerDoor.mem_all d))
  have halt : ∀ d, t.board.haltSet.has (.door d) = s.withApplied.appliedMember d (s.board.haltSet.has (.door d)) := fun d => by
    rw [hh, reached.halt d, if_pos (PerDoor.mem_all d)]
    rfl
  have inhibit : ∀ d, t.board.driveInhibit.has (.door d)
      = s.withApplied.appliedMember d (s.board.driveInhibit.has (.door d)) := fun d => by
    rw [hi, reached.inhibit d, if_pos (PerDoor.mem_all d)]
    rfl
  have params : ∀ d, s.withApplied.doorParams d = t.doorParams d := fun d => by
    rw [State.doorParams_congr (s := t) (t := s.withApplied) ht.symm]
  have door : ∀ d, s.withApplied.door d = s.door d := fun _ => rfl
  refine ⟨fun d hf => ?_, fun d hf ha => ?_, fun d hf ha => ?_⟩
  all_goals
    rw [State.fitted] at hf
    rw [record, halt, inhibit]
    simp only [State.appliedDoor, State.appliedMember, params, door, hf]
  · exact ⟨rfl, rfl, rfl⟩
  · simp only [ha]
    exact ⟨rfl, rfl, rfl⟩
  · simp only [if_neg ha]
    exact ⟨rfl, rfl, rfl⟩

/-! ## The speed-limit map -/

/-- The speed-limit map where it is as the application leaves it before the FIT's effects, SYNC withdrawn by them (R24,
R52). -/
theorem State.limitsLeft_of {s t : State} (ht : t.tables = s.tables.apply)
    (h : ∀ k, t.board.limits.get k =
      if k = .sync ∧ s.tables.waiting.fit = true ∧ s.path.cycle.syncPosted = true then none
      else (s.withApplied.appliedLimits s.tables.waiting).get k) : s.LimitsLeft t := by
  have param := State.paramNat_congr (s := t) (t := s.withApplied) ht.symm
  have board : s.withApplied.board = s.board := rfl
  intro k
  rw [h k, State.appliedLimits, PerKind.get_ofFn, param, board]
  by_cases hs : k = .sync ∧ s.tables.waiting.fit = true ∧ s.path.cycle.syncPosted = true
  · simp [hs]
  · simp [hs]

end Sys2Proof.Machine
end

section
/-! The blocks after an application of the pending set, each in turn (R181). -/

namespace Sys2Proof.Machine

/-! ## Corners at a CORNER table -/

/-- A corner after an application of the CORNER table, and of the FIT where one is pending, before the kneel sequencer's request
(R127, R133). -/
theorem State.postFit_corner {s : State} (h : s.tables.waiting.corner = true) (c : Corner) :
    s.postFit.levels.corners.get c = {
      ring := [], average := none, inBand := false, slow := false, activeSince := none
      mode := if s.tables.waiting.fit = true ∧ s.slots[slotHeight c].validity = .valid then .fault else .idle
      target := targetAfterApplication (s.withApplied.cornerParams c) (s.levels.corners.get c).target } := by
  rw [s.postFit_left.corner, s.preFit_corner, if_pos h]
  by_cases hf : s.tables.waiting.fit = true
  · by_cases hv : s.slots[slotHeight c].validity = .valid
    · rw [if_pos hf, if_pos hv, if_pos ⟨hf, hv⟩]
      rfl
    · rw [if_pos hf, if_neg hv, if_neg fun h => hv h.2]
      rfl
  · rw [if_neg hf, if_neg fun h => hf h.1]
    rfl

theorem State.postFit_blank {s : State} (h : s.tables.waiting.corner = true) (c : Corner) :
    (s.postFit.levels.corners.get c).Blank := by
  rw [State.postFit_corner h]
  refine ⟨rfl, ?_⟩
  simp only
  split <;> rfl

/-! ## After the kneel sequencer's request -/

/-- The state `t` after the whole application. -/
structure State.Finished (s t : State) : Prop where
  frame : t = { s.postFit with
    levels := { s.postFit.levels with corners := t.levels.corners }
    board := { s.postFit.board with limits := t.board.limits } }
  limits : ∀ k, k ≠ .levelSlow → t.board.limits.get k = s.postFit.board.limits.get k
  slow : s.tables.waiting.corner = true → t.board.limits.levelSlow = none
  corner : s.tables.waiting.corner = true → ∀ c, t.levels.corners.get c = { s.postFit.levels.corners.get c with
    target := if (s.postFit.cornerParams c).kerb then s.postFit.requestedTarget c (requestOfState s.kneel.state)
      else (s.postFit.levels.corners.get c).target }
  still : s.tables.waiting.corner = false → t = s.postFit

theorem State.postFit_kneel (s : State) : s.postFit.kneel = s.kneel := by
  have kept : s.postFit.kneel = s.preFit.kneel := s.postFit_left.changes.get .kneel
  rw [kept, s.preFit_eq]

theorem State.storeMark_finished {s : State} (h : s.markVerdict = .apply) : s.Finished s.storeMark.1 := by
  rw [State.storeMark_applied h]
  cases hc : s.tables.waiting.corner with
  | false => exact ⟨rfl, fun _ _ => rfl, fun h => absurd (hc.symm.trans h) (by decide),
      fun h => absurd (hc.symm.trans h) (by decide), fun _ => rfl⟩
  | true =>
    have blank := State.postFit_blank hc
    show s.Finished (s.postFit.kerbRequest (requestOfState s.postFit.kneel.state))
    rw [s.postFit_kneel]
    refine ⟨State.kerbRequest_frame _ _, fun k hk => ?_, fun _ => State.kerbRequest_slow blank _,
      fun _ c => State.kerbRequest_blank (blank c) _, fun hn => absurd (hc.symm.trans hn) (by decide)⟩
    exact (State.BoardKept.kerbRequest s.postFit _).limits k (by simpa using hk)

namespace State.Finished

variable {s t : State}

theorem doors (h : s.Finished t) : t.doors = s.postFit.doors := by rw [h.frame]

theorem quieted (h : s.Finished t) : State.DoorsQuieted s.preFit t :=
  s.postFit_left.doors.trans (.of_same h.doors (by rw [h.frame]) (by rw [h.frame]) (by rw [h.frame]))

theorem tables (h : s.Finished t) : t.tables = s.tables.apply := by
  have kept : s.postFit.tables = s.preFit.tables := s.postFit_left.changes.get .tables
  rw [h.frame]
  exact kept.trans (by rw [s.preFit_eq])

theorem slots (h : s.Finished t) : t.slots = s.postFit.slots := by rw [h.frame]

theorem ride (h : s.Finished t) : t.levels.ride = s.levels.ride := by
  rw [h.frame]
  exact s.postFit_left.ride

theorem track (h : s.Finished t) : t.track = s.preFit.track := by
  rw [h.frame]
  exact s.postFit_left.changes.get .track

theorem rear (h : s.Finished t) : t.steering.rear = s.preFit.steering.rear := by
  have kept := congrArg Steering.rear s.postFit_left.steering
  rw [h.frame]
  exact kept

theorem door (h : s.Finished t) (d : Door) : t.door d = s.postFit.door d := by rw [State.door, h.doors, State.door]

/-- A corner after an application of the CORNER table (R127, R133, R147). -/
theorem corner_eq (h : s.Finished t) (hc : s.tables.waiting.corner = true) (c : Corner) :
    let p := t.cornerParams c
    t.levels.corners.get c = {
      ring := [], average := none, inBand := false, slow := false, activeSince := none
      mode := if s.tables.waiting.fit = true ∧ s.slots[slotHeight c].validity = .valid then .fault else .idle
      target :=
        if p.kerb then
          match s.kneel.state with
          | .lowering => .kneel
          | .knelt => .kneel
          | .paused => .frozen (clampInt p.min p.max ((t.readInt (slotHeight c)).getD
              (if s.levels.ride = .normal then p.normal else p.high)))
          | .ride => .rideLevel
          | .arming => .rideLevel
          | .raising => .rideLevel
        else .rideLevel } := by
  intro p
  have params : s.postFit.cornerParams c = p := by
    have same : s.postFit.tables = t.tables := by rw [h.frame]
    rw [State.cornerParams_congr same]
  have before : s.withApplied.cornerParams c = p :=
    congrFun (State.cornerParams_congr (s := t) (t := s.withApplied) h.tables.symm) c
  have frozen : s.postFit.frozenHeight c = clampInt p.min p.max ((t.readInt (slotHeight c)).getD
      (if s.levels.ride = .normal then p.normal else p.high)) := by
    have average : (s.postFit.levels.corners.get c).average = none := by rw [State.postFit_corner hc]
    have ride : s.postFit.rideTarget c = if s.levels.ride = .normal then p.normal else p.high := by
      rw [State.rideTarget, s.postFit_left.ride, params]
      cases s.levels.ride <;> rfl
    rw [State.frozenHeight, params]
    simp only [average, ride, State.readInt_congr h.slots]
  rw [h.corner hc, State.postFit_corner hc, params, before]
  cases hk : p.kerb with
  | false => simp [targetAfterApplication, hk]
  | true => cases s.kneel.state <;> simp [requestOfState, State.requestedTarget, frozen]

end State.Finished

end Sys2Proof.Machine
end

section
/-! An application of the pending set as a whole (R31, R43, R52, R65, R66, R68, R127, R133, R147, R165). -/

namespace Sys2Proof.Machine

/-! ## Before the loss notices -/

theorem State.preFit_doors {s : State} (h : s.tables.waiting.door = true) : s.DoorsLeft s.preFit :=
  State.doored_left h (by rw [s.preFit_eq]) (by rw [s.preFit_eq]) (by rw [s.preFit_eq]) (by rw [s.preFit_eq])

/-- The state before the loss notices of an application of the FIT, block by block. -/
theorem State.cleared_eq (s : State) : s.preFit.fitCleared = { s with
    tables := s.tables.apply, slots := s.preFit.fitCleared.slots, path := s.preFit.fitCleared.path
    track := s.preFit.track, echoes := s.preFit.fitCleared.echoes, steering := s.preFit.fitCleared.steering
    levels := { s.levels with corners := s.preFit.fitCleared.levels.corners }
    doors := s.doored.doors
    board := { s.doored.board with limits := s.preFit.fitCleared.board.limits } } := by
  rw [State.fitCleared_eq, State.preFit_eq]
  rfl

theorem State.cleared_corner (s : State) (c : Corner) :
    s.preFit.fitCleared.levels.corners.get c = (s.preFit.levels.corners.get c).clearRing := by
  rw [State.fitCleared_eq, State.clearRings_get]

theorem State.cleared_limits {s : State} (h : s.tables.waiting.fit = true) : s.LimitsLeft s.preFit.fitCleared := by
  refine State.limitsLeft_of (by rw [State.cleared_eq]) fun k => ?_
  have path : s.preFit.path = s.path := by rw [s.preFit_eq]
  have limits : s.preFit.board.limits = s.withApplied.appliedLimits s.tables.waiting := by rw [s.preFit_eq]
  rw [State.fitCleared_eq, path, limits, h]
  cases hp : s.path.cycle.syncPosted <;> cases k <;> simp [PerKind.get]

/-- The loss notices of an application of the FIT (R31). -/
theorem State.Finished.losses {s t : State} (h : s.Finished t) (hv : s.markVerdict = .apply)
    (ht : t = s.storeMark.1) (hf : s.tables.waiting.fit = true) : s.FitLossesTaken t := by
  have eq := s.cleared_eq
  have post : s.postFit = s.preFit.fitApplied := by rw [State.postFit, hf]; rfl
  obtain ⟨doors, board⟩ := s.doored_frame
  have later : State.ChangesOnly [.ports, .levels, .doors, .board, .orderCount] s.preFit.fitCleared s.postFit := by
    rw [post, State.fitApplied_eq]
    exact State.takeLosses_changes _ _ _
  have takes := s.preFit.fitApplied_takes
  rw [s.preFit_slots, ← post] at takes
  refine ⟨s.preFit.fitCleared, s.postFit, fun hd => ?_, fun hd => ?_, State.cleared_limits hf, fun c => ?_, ?_, fun hd => ?_,
    takes, ?_⟩
  · exact State.doored_left hd (by rw [eq]) (by rw [eq]) (by rw [eq]) (by rw [eq])
  · rw [eq, State.doored_of_unasked hd]
    rfl
  · simp only [s.cleared_corner, s.preFit_corner]
    split <;> rfl
  · have tables : t.tables = s.tables.apply := h.tables
    have slots : t.slots = s.preFit.fitCleared.slots := h.slots.trans (later.get .slots)
    have path : t.path = s.preFit.fitCleared.path := by
      rw [h.frame]
      exact later.get .path
    have echoes : t.echoes = s.preFit.fitCleared.echoes := by
      rw [h.frame]
      exact later.get .echoes
    have steering : t.steering = s.preFit.fitCleared.steering := by
      rw [h.frame]
      exact later.get .steering
    rw [tables, slots, path, echoes, steering, h.track]
    generalize s.preFit.fitCleared = u at eq
    rw [doors, board] at eq
    rw [eq]
  · rw [eq, State.doored_of_unasked hd]
    rfl
  · rw [ht, State.storeMark_applied hv]
    rfl

/-! ## The blocks' parts -/

namespace State.Finished

variable {s t : State}

/-- Without a FIT the doors and the board but for its limits are as the DOOR table's part leaves them. -/
theorem unfit (h : s.Finished t) (hf : s.tables.waiting.fit = false) :
    t.doors = s.doored.doors ∧ t.board = { s.doored.board with limits := t.board.limits }
      ∧ t.steering = s.preFit.steering := by
  have post : s.postFit = s.preFit := by rw [State.postFit, hf]; rfl
  have frame := h.frame
  rw [post, s.preFit_eq] at frame
  have doors : t.doors = s.doored.doors := by rw [frame]
  have board : t.board = { s.doored.board with limits := t.board.limits } := by
    generalize t.board.limits = l at frame
    generalize t.levels.corners = cs at frame
    rw [frame]
  have steering : t.steering = s.preFit.steering := by
    rw [frame, s.preFit_eq]
  exact ⟨doors, board, steering⟩

theorem limitsLeft (h : s.Finished t) (hf : s.tables.waiting.fit = false) : s.LimitsLeft t := by
  have post : s.postFit = s.preFit := by rw [State.postFit, hf]; rfl
  refine State.limitsLeft_of h.tables fun k => ?_
  rw [hf, if_neg (by simp)]
  by_cases hk : k = .levelSlow ∧ s.tables.waiting.corner = true
  · obtain ⟨rfl, hc⟩ := hk
    rw [State.appliedLimits, PerKind.get_ofFn, if_pos ⟨rfl, hc⟩]
    exact h.slow hc
  · have kept : t.board.limits.get k = s.postFit.board.limits.get k := by
      by_cases hc : s.tables.waiting.corner = true
      · exact h.limits k fun e => hk ⟨e, hc⟩
      · rw [h.still (by simpa using hc)]
    rw [kept, post, s.preFit_eq]

/-- An unfitted door is ABSENT whatever loss notices come after it (R165). -/
theorem unfitted (h : s.Finished t) (hd : s.tables.waiting.door = true) (d : Door) (hn : t.fitted d = false) :
    t.door d = .reset .absent ∧ t.board.haltSet.has (.door d) = false ∧ t.board.driveInhibit.has (.door d) = false := by
  have left := State.preFit_doors hd
  have fitted : s.preFit.fitted d = false := by
    have same : s.preFit.tables = t.tables := by rw [h.tables, s.preFit_eq]
    rw [State.fitted_congr same, hn]
  obtain ⟨record, halt, inhibit⟩ := left.unfitted d fitted
  obtain ⟨record', halt', inhibit'⟩ := h.quieted.absent d (by rw [record])
  exact ⟨record'.trans record, halt'.trans halt, inhibit'.trans inhibit⟩

/-- No event is latched, but for doors that the DOOR table makes ABSENT or new (R165). -/
theorem quiet (h : s.Finished t) : t.doors.faults = { s.doors.faults with egressDrop := t.doors.faults.egressDrop } ∧ ∀ d,
    (s.tables.waiting.door = true → t.fitted d = true ∧ (s.door d).state ≠ .absent) →
      (t.door d).latch = (s.door d).latch := by
  have faults : s.preFit.doors.faults = s.doors.faults := by
    have same : s.preFit.doors = s.doored.doors := by rw [s.preFit_eq]
    rw [same, s.doored_frame.1]
  refine ⟨by rw [h.quieted.faults, faults], fun d hd => ?_⟩
  rw [h.quieted.latch]
  cases hw : s.tables.waiting.door with
  | false =>
    rw [State.door, s.preFit_eq, State.doored_of_unasked hw]
    rfl
  | true =>
    obtain ⟨fitted, present⟩ := hd hw
    have left := State.preFit_doors hw
    have same : s.preFit.tables = t.tables := by rw [h.tables, s.preFit_eq]
    rw [(left.stillFitted d (by rw [State.fitted_congr same, fitted]) present).1]

/-- A newly fitted door latches the halt (R43, R45). -/
theorem latched (h : s.Finished t) (hs : s.InterlocksSound) (hd : s.tables.waiting.door = true) {d : Door}
    (hf : t.fitted d = true) (ha : (s.door d).state = .absent) : t.board.haltLatch = true := by
  have fitted : s.withApplied.fitted d = true := by
    rw [State.fitted_congr (s := t) (t := s.withApplied) h.tables.symm, hf]
  have latch : s.doored.board.haltLatch = true :=
    (State.doored_reached hd).posted hs.latched d (PerDoor.mem_all d) fitted ha
  refine h.quieted.raised ?_
  rw [s.preFit_eq]
  exact latch

/-- The track queue and the axles' modes (R65, R66). -/
theorem rearModes (h : s.Finished t) :
    (s.tables.active.trackChanged t.tables.active → t.track = { s.track with marks := [] }
        ∧ ∀ r, (t.steering.rear.get r).mode =
          if (s.steering.rear.get r).mode = .follow then .centre else (s.steering.rear.get r).mode)
      ∧ (¬s.tables.active.trackChanged t.tables.active → t.track = s.track
        ∧ ∀ r, (t.steering.rear.get r).mode = (s.steering.rear.get r).mode) := by
  have moved : s.withApplied.movesTrack s.tables.active s.tables.waiting = true
      ↔ s.tables.active.trackChanged t.tables.active := by
    rw [h.tables]
    exact s.movesTrack_iff
  rw [← moved, h.track, h.rear, s.preFit_eq]
  refine ⟨fun hm => ⟨by rw [if_pos hm], fun r => ?_⟩, fun hm => ⟨by rw [if_neg hm], fun r => ?_⟩⟩
  · simp only [PerRear.get_ofFn, hm, true_and]
  · simp only [PerRear.get_ofFn]
    rw [if_neg fun h => hm h.1]

theorem angles (h : s.Finished t) (hm : ∃ n, s.tables.waiting.get n = true ∧ n.isMotion = true) (r : Rear) :
    (t.steering.rear.get r).lastAngle = 0 := by
  rw [h.rear, s.preFit_eq]
  simp only [PerRear.get_ofFn, (holdsMotion_iff _).mpr hm, if_true]

/-- Without a motion table the steering unit stands (R65, R68). -/
theorem withoutMotion (h : s.Finished t) (hm : ∀ n, s.tables.waiting.get n = true → n.isMotion = false) :
    t.steering = s.steering := by
  have unheld : ∀ n : TableName, n.isMotion = true → s.tables.waiting.get n = false := fun n hn => by
    by_contra hw
    rw [hm n (by simpa using hw)] at hn
    cases hn
  have still : holdsMotion s.tables.waiting = false := by
    rw [← Bool.not_eq_true, holdsMotion_iff]
    rintro ⟨n, hw, hn⟩
    rw [hm n hw] at hn
    cases hn
  have unmoved : s.withApplied.movesTrack s.tables.active s.tables.waiting = false := by
    have hc : s.tables.waiting.constants = false := unheld .constants rfl
    have ha : s.tables.waiting.axle = false := unheld .axle rfl
    rw [State.movesTrack, hc, ha]
    rfl
  rw [(h.unfit (unheld .fit rfl)).2.2, s.preFit_eq, still, unmoved]
  simp only [Bool.false_eq_true, false_and, if_false]
  rfl

/-- Everything that an application does at the blocks (R181). -/
theorem applicationLeft (h : s.Finished t) (hv : s.markVerdict = .apply) (ht : t = s.storeMark.1) :
    s.ApplicationLeft t where
  corners hc := ⟨h.slow hc, h.corner_eq hc⟩
  fitCorners hf hc c := by
    rw [h.still hc, s.postFit_left.corner, s.preFit_corner, if_pos hf, hc]
    rfl
  losses := h.losses hv ht
  quiet := h.quiet
  doors hd hf := by
    obtain ⟨doors, board, -⟩ := h.unfit hf
    exact State.doored_left hd h.tables doors (by rw [board]) (by rw [board])
  unfitted := h.unfitted
  latched hs hd hn := by
    obtain ⟨d, hf, ha⟩ := hn
    exact h.latched hs hd hf ha
  emptied := h.rearModes.1
  kept := h.rearModes.2
  angles := h.angles
  limits := h.limitsLeft
  ride := h.ride
  withoutCorner hf hc := by
    have post : s.postFit = s.preFit := by rw [State.postFit, hf]; rfl
    rw [h.still hc, post, s.preFit_eq, hc]
    rfl
  withoutDoor hf hd := by
    obtain ⟨doors, board, -⟩ := h.unfit hf
    rw [State.doored_of_unasked hd] at doors board
    exact ⟨doors, board⟩
  withoutMotion := h.withoutMotion
  frame hf := by
    obtain ⟨doors, board⟩ := s.doored_frame
    have post : s.postFit = s.preFit := by rw [State.postFit, hf]; rfl
    have rest := h.frame
    rw [post, s.preFit_eq, doors, board] at rest
    rw [rest]

end State.Finished

end Sys2Proof.Machine
end

section
/-! What the blocks' own actions at a mark leave of an application of the FIT before them (R24, R30, R83, R128, R165, R166). -/

namespace Sys2Proof.Machine

/-! ## Corner records at changes of target -/

/-- A corner record after changes of its target alone: an empty ring stays empty, and a corner in FAULT with nothing kept stays
so (R127, R128). -/
structure CornerRecord.Follows (r r' : CornerRecord) : Prop where
  ring : r.ring = [] → r'.ring = []
  inBand : r.inBand = false → r'.inBand = false
  lost : r = { r with ring := [], average := none, inBand := false, slow := false, activeSince := none, mode := .fault } →
    r' = { r' with ring := [], average := none, inBand := false, slow := false, activeSince := none, mode := .fault }

theorem CornerRecord.Follows.refl (r : CornerRecord) : r.Follows r := ⟨fun h => h, fun h => h, fun h => h⟩

theorem CornerRecord.Follows.trans {r r' r'' : CornerRecord} (h : r.Follows r') (h' : r'.Follows r'') : r.Follows r'' :=
  ⟨fun hr => h'.ring (h.ring hr), fun hi => h'.inBand (h.inBand hi), fun hl => h'.lost (h.lost hl)⟩

theorem CornerRecord.Follows.retarget (r : CornerRecord) (deadline : Nat) (x : TargetSource) :
    r.Follows { r.retarget deadline with target := x } where
  ring _ := rfl
  inBand _ := rfl
  lost h := by
    rw [h]
    rfl

/-- Every corner record follows from the one before by changes of target. -/
def State.CornersFollow (s t : State) : Prop := ∀ c, (s.levels.corners.get c).Follows (t.levels.corners.get c)

namespace State.CornersFollow

variable {s t u : State}

theorem of_levels (h : t.levels = s.levels) : CornersFollow s t := fun c => by
  rw [h]
  exact .refl _

theorem refl (s : State) : CornersFollow s s := of_levels rfl

theorem of_changes {bs : List Block} (h : State.ChangesOnly bs s t) (hb : Block.levels ∉ bs := by decide) :
    CornersFollow s t := of_levels (h.get .levels hb)

theorem trans (h : CornersFollow s t) (h' : CornersFollow t u) : CornersFollow s u := fun c => (h c).trans (h' c)

theorem ite {c : Prop} [Decidable c] (h : CornersFollow s t) (h' : CornersFollow s u) :
    CornersFollow s (if c then t else u) := by
  split
  · exact h
  · exact h'

theorem retargetRide (s : State) : CornersFollow s s.retargetRide := by
  intro c
  rw [State.retargetRide, State.settleSlow_levels, State.mapCorners_get]
  split
  · exact .retarget _ _ (s.levels.corners.get c).target
  · exact .refl _

theorem kerbRequest (s : State) (q : KerbRequest) : CornersFollow s (s.kerbRequest q) := by
  intro c
  rw [State.kerbRequest, State.settleSlow_levels, State.mapCorners_get]
  split
  · exact .retarget _ _ _
  · exact .refl _

theorem rideNormal (s : State) : CornersFollow s s.rideNormal := by
  unfold State.rideNormal
  split
  · exact refl s
  · have first : CornersFollow s { s with levels := { s.levels with ride := .normal } } := fun _ => .refl _
    exact (first.trans (retargetRide _)).trans (of_levels rfl)

theorem enterArming (s : State) : CornersFollow s s.enterArming :=
  (of_changes (s.setKneel_changes _)).trans ((of_changes (State.postReason_changes _ _)).trans (rideNormal _))

theorem enterLowering (s : State) : CornersFollow s s.enterLowering :=
  (of_changes (s.setKneel_changes _)).trans ((of_changes (State.requestSnapshot_changes _)).trans (kerbRequest _ _))

theorem enterPaused (s : State) : CornersFollow s s.enterPaused :=
  (of_changes (s.setKneel_changes _)).trans (kerbRequest _ _)

theorem enterRaising (s : State) : CornersFollow s s.enterRaising :=
  (of_changes (s.setKneel_changes _)).trans (kerbRequest _ _)

theorem dropKneelFault (s : State) : CornersFollow s s.dropKneelFault := of_changes s.dropKneelFault_changes

theorem enterRide (s : State) (b : Bool) : CornersFollow s (s.enterRide b) := of_changes (s.enterRide_changes b)

/-- A re-evaluation of the kneel state changes targets alone (R129, R137). -/
theorem kneelReevaluate (s : State) (ask : KneelAsk) : CornersFollow s (s.kneelReevaluate ask) := by
  unfold State.kneelReevaluate
  split
  · have dropped : CornersFollow s (if s.kneel.faultPosted ∧ s.allInBand then s.dropKneelFault else s) :=
      .ite (dropKneelFault s) (refl s)
    exact .ite (dropped.trans (enterArming _)) dropped
  · exact .ite (enterRide s false) (.ite (enterLowering s) (refl s))
  · exact .ite (enterRaising s) (.ite (enterPaused s) (.ite (of_changes (s.setKneel_changes _)) (refl s)))
  · exact .ite (enterRaising s) (refl s)
  · exact .ite (enterRaising s) (.ite (enterLowering s) (refl s))
  · exact .ite (enterLowering s) (.ite (enterRide s true) (refl s))

theorem kneelMark (s : State) (b : Bool) : CornersFollow s (s.kneelMark b) :=
  .trans (.ite (of_changes (s.setKneel_changes _)) (refl s)) (kneelReevaluate _ _)

end State.CornersFollow

/-! ## Echo records at emissions -/

/-- Every echo record keeps its state and its counts. -/
def State.EchoesCalm (s t : State) : Prop := ∀ k,
  (t.echoes.records.get k).state = (s.echoes.records.get k).state
    ∧ (t.echoes.records.get k).mismatch = (s.echoes.records.get k).mismatch
    ∧ (t.echoes.records.get k).agreement = (s.echoes.records.get k).agreement

namespace State.EchoesCalm

variable {s t u : State}

theorem of_echoes (h : t.echoes = s.echoes) : EchoesCalm s t := fun k => by rw [h]; exact ⟨rfl, rfl, rfl⟩

theorem refl (s : State) : EchoesCalm s s := of_echoes rfl

theorem trans (h : EchoesCalm s t) (h' : EchoesCalm t u) : EchoesCalm s u := fun k =>
  ⟨(h' k).1.trans (h k).1, (h' k).2.1.trans (h k).2.1, (h' k).2.2.trans (h k).2.2⟩

/-- An emission is noted in its record without a judgement (R167). -/
theorem echoEmission (s : State) (k : EchoKind) (v : Int) : EchoesCalm s (s.echoEmission k v) := by
  unfold State.echoEmission
  split
  · exact refl s
  · intro k'
    by_cases e : k' = k
    · subst e
      simp [State.setEcho]
    · simp [State.setEcho, PerEcho.get_set_of_ne _ _ _ _ e]

theorem brakesEmitted (s : State) (p : PerAxle Nat) : EchoesCalm s (s.brakesEmitted p) := by
  have fold : ∀ (as : List Axle) (t : State), EchoesCalm t (as.foldl (fun t a => t.echoEmission (.brake a) (p.get a)) t) := by
    intro as
    induction as with
    | nil => exact refl
    | cons a as ih => exact fun t => (echoEmission t _ _).trans (ih _)
  exact fold _ s

theorem computePressures (s : State) (demand : Nat) : EchoesCalm s (s.computePressures demand) := by
  simp only [State.computePressures]
  have limited : ((s.recordLoads (PerAxle.ofFn s.axleLoad)).brakeLimit).echoes = s.echoes :=
    (State.brakeLimit_changes _).get .echoes
  split
  · rename_i h
    have offered := (State.offerSet_changes h).get .echoes
    exact (of_echoes (offered.trans limited)).trans (brakesEmitted _ _)
  · exact of_echoes limited

theorem brakeMark (s : State) : EchoesCalm s s.brakeMark := by
  unfold State.brakeMark
  split
  · exact refl s
  · simp only [State.computeStale]
    refine .trans (of_echoes ?_) (computePressures _ _)
    split <;> rfl

theorem steerMark (s : State) : EchoesCalm s s.steerMark := by
  by_cases h : s.present (slotJoint .j1) = true
  · rw [State.steerMark, if_pos h]
    exact refl s
  · rw [State.steerMark_eq (by simpa using h)]
    split
    · exact ((echoEmission s _ _).trans (echoEmission _ _ _)).trans (of_echoes rfl)
    · exact of_echoes rfl

end State.EchoesCalm

end Sys2Proof.Machine
end

section
/-! A mark that applies the FIT, of the internal timer and of a SYNC arrival (R24, R30, R165). -/

namespace Sys2Proof.Machine

/-! ## The blocks' actions after the application -/

/-- What the blocks' own actions at a mark keep of what the FIT's application has left. -/
structure State.FitKept (s t : State) : Prop where
  path : t.path = s.path
  slots : t.slots = s.slots
  doors : t.doors = s.doors
  tables : t.tables = s.tables
  sync : t.board.limits.sync = s.board.limits.sync
  confirmed : t.board.haltConfirmed = s.board.haltConfirmed
  limiter : t.steering.limiter = s.steering.limiter
  angles : (∀ r, (s.steering.rear.get r).lastAngle = 0) → ∀ r, (t.steering.rear.get r).lastAngle = 0
  echoes : State.EchoesCalm s t
  corners : State.CornersFollow s t

theorem State.FitKept.refl (s : State) : State.FitKept s s :=
  ⟨rfl, rfl, rfl, rfl, rfl, rfl, rfl, fun h => h, .refl s, .refl s⟩

theorem State.FitKept.trans {s t u : State} (h : State.FitKept s t) (h' : State.FitKept t u) : State.FitKept s u where
  path := h'.path.trans h.path
  slots := h'.slots.trans h.slots
  doors := h'.doors.trans h.doors
  tables := h'.tables.trans h.tables
  sync := h'.sync.trans h.sync
  confirmed := h'.confirmed.trans h.confirmed
  limiter := h'.limiter.trans h.limiter
  angles ha := h'.angles (h.angles ha)
  echoes := h.echoes.trans h'.echoes
  corners := h.corners.trans h'.corners

/-- The steering unit's own part leaves the limiter, and both last angle commands 0 where they are 0 (R68, R81). -/
theorem State.steerMark_steering (s : State) : s.steerMark.steering.limiter = s.steering.limiter
    ∧ ((∀ r, (s.steering.rear.get r).lastAngle = 0) → ∀ r, (s.steerMark.steering.rear.get r).lastAngle = 0) := by
  by_cases h : s.present (slotJoint .j1) = true
  · rw [State.steerMark, if_pos h]
    exact ⟨rfl, fun ha => ha⟩
  · rw [State.steerMark_eq (by simpa using h)]
    split
    · exact ⟨rfl, fun _ r => by simp⟩
    · rw [State.rearsLocked_eq]
      exact ⟨rfl, fun ha r => by simpa using ha r⟩

theorem State.FitKept.markAction (s : State) {a : MarkAction} (hf : a ≠ .followSync) : State.FitKept s (s.markAction a) := by
  have changes := s.markAction_changes a
  have board : State.BoardKept (.steerA3 :: .steerA4 :: blockLimits) s (s.markAction a) := by
    by_cases hs : a = .steering
    · subst hs
      exact (State.BoardKept.steerMark s).mono
    · exact (State.BoardKept.markAction s hs hf).mono
  have kept : ∀ (_ : (s.markAction a).steering.limiter = s.steering.limiter
        ∧ ((∀ r, (s.steering.rear.get r).lastAngle = 0) → ∀ r, ((s.markAction a).steering.rear.get r).lastAngle = 0)),
      State.EchoesCalm s (s.markAction a) → State.CornersFollow s (s.markAction a) → State.FitKept s (s.markAction a) :=
    fun hs he hc => ⟨s.markAction_path hf, changes.get .slots, changes.get .doors, changes.get .tables,
      board.limits .sync (by decide), board.confirmed, hs.1, hs.2, he, hc⟩
  have steering : (s.markAction a).steering = s.steering → (s.markAction a).steering.limiter = s.steering.limiter
      ∧ ((∀ r, (s.steering.rear.get r).lastAngle = 0) → ∀ r, ((s.markAction a).steering.rear.get r).lastAngle = 0) :=
    fun h => ⟨by rw [h], fun ha r => by rw [h, ha r]⟩
  cases a with
  | chassis =>
    have c := s.offerChassis_changes
    exact kept (steering (c.get .steering)) (.of_echoes (c.get .echoes)) (.of_levels (c.get .levels))
  | steering => exact kept s.steerMark_steering (.steerMark s) (.of_levels (s.steerMark_changes.get .levels))
  | joints =>
    have c := s.jointMark_changes
    exact kept (steering (c.get .steering)) (.of_echoes (c.get .echoes)) (.of_levels (c.get .levels))
  | brakes =>
    have c := s.brakeMark_changes
    exact kept (steering (c.get .steering)) (.brakeMark s) (.of_levels (c.get .levels))
  | kneel b =>
    have c := s.kneelMark_changes b
    exact kept (steering (c.get .steering)) (.of_echoes (c.get .echoes)) (.kneelMark s b)
  | followSync => exact absurd rfl hf

/-- At a mark that applies the FIT the blocks act, the cycle mark source stays (R24). -/
theorem State.cycleMark_fit {s : State} (h : s.wouldApplyFit = true) (b : Bool) :
    State.FitKept s.storeMark.1 (s.cycleMark b) := by
  obtain ⟨takes, idle⟩ := s.cycleMark_takes b
  cases hr : s.storeMark.1.inRun with
  | false =>
    rw [idle hr]
    exact .refl _
  | true =>
    have taken := takes hr
    rw [markActions_eq, State.storeMark_applied_fit, h] at taken
    simp only [Bool.not_true, Bool.and_false, Bool.false_eq_true, if_false, List.append_nil] at taken
    exact taken.induction (P := State.FitKept s.storeMark.1)
      (fun _ _ ht => ht.trans ⟨rfl, rfl, rfl, rfl, rfl, rfl, rfl, fun ha => ha, .refl _, .refl _⟩)
      (fun a ha t ht => ht.trans (.markAction t fun e => followSync_not_mem_blockActions _ (e ▸ ha))) (.refl _)

/-! ## The store's part -/

/-- A corner's ring is empty after an application of the FIT (R128). -/
theorem State.Finished.rings {s t : State} (h : s.Finished t) (hf : s.tables.waiting.fit = true) (c : Corner) :
    (t.levels.corners.get c).ring = [] ∧ (t.levels.corners.get c).inBand = false := by
  cases hc : s.tables.waiting.corner with
  | true =>
    rw [h.corner_eq hc c]
    exact ⟨rfl, rfl⟩
  | false =>
    rw [h.still hc, s.postFit_left.corner, if_pos hf]
    split <;> exact ⟨rfl, rfl⟩

/-- A corner whose height was VALID is in FAULT with nothing kept after an application of the FIT (R127). -/
theorem State.Finished.faulted {s t : State} (h : s.Finished t) (hf : s.tables.waiting.fit = true) {c : Corner}
    (hv : s.slots[slotHeight c].validity = .valid) : t.levels.corners.get c = { t.levels.corners.get c with
      ring := [], average := none, inBand := false, slow := false, activeSince := none, mode := .fault } := by
  cases hc : s.tables.waiting.corner with
  | true =>
    rw [h.corner_eq hc c]
    simp only [hf, hv, and_self, if_true]
  | false =>
    rw [h.still hc, s.postFit_left.corner, if_pos hf, if_pos hv]
    rfl

/-- A door that the new tables fit is not ABSENT before the FIT's effects, where no door that the old ones fit was (R165). -/
theorem State.preFit_present {s : State} (hs : ∀ d, s.fitted d = true → (s.door d).state ≠ .absent) {d : Door}
    (hf : s.withApplied.fitted d = true) : (s.preFit.door d).state ≠ .absent := by
  cases hw : s.tables.waiting.door with
  | false =>
    have same : s.withApplied.fitted d = s.fitted d := by
      simp [State.fitted, State.doorParams, State.withApplied, TableStore.apply, copyTables, hw]
    have record : s.preFit.door d = s.door d := by
      rw [State.door, s.preFit_eq, State.doored_of_unasked hw]
      rfl
    rw [record]
    exact hs d (same ▸ hf)
  | true =>
    have left := State.preFit_doors hw
    have fitted : s.preFit.fitted d = true := by
      have same : s.preFit.tables = s.withApplied.tables := by rw [s.preFit_eq]; rfl
      rw [State.fitted_congr same, hf]
    by_cases ha : (s.door d).state = .absent
    · rw [(left.newlyFitted d fitted ha).1]
      nofun
    · rw [(left.stillFitted d fitted ha).1]
      exact ha

/-- A mark that applies the FIT, before the blocks act (R24, R30, R83, R113, R127, R128, R165, R166). -/
theorem State.storeMark_fitLeft {s : State} (h : s.wouldApplyFit = true) {sound : Prop}
    (hd : sound → ∀ d, s.fitted d = true → (s.door d).state ≠ .absent) :
    State.FitLeft s.slots s.path.cycle.syncPosted sound s.storeMark.1 := by
  obtain ⟨slots, path⟩ := State.storeMark_fit h
  simp only [State.wouldApplyFit, Bool.and_eq_true, decide_eq_true_eq] at h
  obtain ⟨hv, hf⟩ := h
  have finished := State.storeMark_finished hv
  have left := finished.applicationLeft hv rfl
  have post : s.postFit = s.preFit.fitApplied := by rw [State.postFit, hf]; rfl
  have lost := s.preFit.fitApplied_lost
  rw [← post] at lost
  have corner := s.postFit_left.corner
  generalize ht : s.storeMark.1 = t at slots path finished left
  have echoes : t.echoes.records = PerEcho.const .reset := by
    have kept : s.postFit.echoes = s.preFit.fitCleared.echoes := by
      rw [post, State.fitApplied_eq]
      exact (State.takeLosses_changes _ _ _).get .echoes
    rw [finished.frame]
    exact (congrArg Echoes.records kept).trans (by rw [s.preFit.fitCleared_eq])
  refine ⟨fun i => ?_, fun i => ?_, ?_, fun hp => ?_, ?_, ?_, fun k => ?_, fun c => ?_, fun c hc => ?_, fun hs d hp hfit => ?_,
    fun hb => ?_⟩
  · rw [slots]
    simp [SignalSlot.reset]
  · rw [path]
    simp [EntryRecord.reset]
  · rw [path]
    exact ⟨rfl, rfl, rfl⟩
  · have sync := finished.limits .sync (by decide)
    have path : s.preFit.path = s.path := by rw [s.preFit_eq]
    exact sync.trans (lost.sync.trans (by rw [path, if_pos hp]))
  · rw [finished.frame]
    exact (congrArg Steering.limiter (congrArg State.steering post)).trans (by rw [State.fitApplied_steering])
  · exact finished.angles ⟨.fit, hf, rfl⟩
  · rw [echoes, PerEcho.get_const]
    exact ⟨rfl, rfl, rfl⟩
  · exact finished.rings hf c
  · exact finished.faulted hf hc
  · have fitted : s.withApplied.fitted d = true := by
      rw [State.fitted_congr (s := t) (t := s.withApplied) finished.tables.symm, hfit]
    rw [finished.door]
    exact lost.unproven d (by rwa [s.preFit_slots]) (State.preFit_present (hd hs) fitted)
  · rw [finished.frame]
    exact lost.confirmed (by rwa [s.preFit_slots])

end Sys2Proof.Machine
end

section
/-! Doors that are not ABSENT stay so at every delivery of an arrival, and the two kinds of mark that apply the FIT (R149,
R165). -/

namespace Sys2Proof.Machine

/-! ## Transitions of a door -/

theorem settledStep_present {r : DoorRecord} {p : DoorPosition} {x : DoorStep} (h : settledStep r p = some x) :
    x.state ≠ .absent := by
  unfold settledStep at h
  repeat' split at h
  all_goals cases h <;> nofun

theorem triggerStep_present {r : DoorRecord} {gate obstruction settled : Bool} {n : Nat} {x : DoorStep}
    (h : triggerStep r gate obstruction settled n = some x) : x.state ≠ .absent := by
  unfold triggerStep at h
  repeat' split at h
  all_goals cases h <;> nofun

theorem requestStep_present {t u : DoorState} {q : DoorAsk} {gate : Bool} (h : requestStep t q gate = some u) :
    u ≠ .absent := by
  unfold requestStep at h
  repeat' split at h
  all_goals cases h <;> nofun

/-- A trigger's record keeps the door's state, and its transition does not lead to ABSENT (R151). -/
theorem State.triggerOutcome_present (s : State) (d : Door) (position : Int) :
    (s.triggerOutcome d position).1.state = (s.door d).state
      ∧ ∀ x, (s.triggerOutcome d position).2 = some x → x.state ≠ .absent := by
  have debounced : ∀ (r : DoorRecord) n p, (r.debounced n p).1.state = r.state := by
    intro r n p
    simp only [DoorRecord.debounced]
    generalize (if r.candidate = some p then min (r.debounce + 1) n else 1) = count
    split <;> rfl
  simp only [State.triggerOutcome]
  split
  · rename_i settled hs
    refine ⟨debounced _ _ _, fun x hx => ?_⟩
    cases hx
    split at hs
    · exact settledStep_present hs
    · cases hs
  · exact ⟨debounced _ _ _, fun x hx => triggerStep_present hx⟩

/-! ## Doors that stay -/

/-- No door becomes ABSENT. -/
def State.DoorsStay (s t : State) : Prop := ∀ d, (s.door d).state ≠ .absent → (t.door d).state ≠ .absent

namespace State.DoorsStay

variable {s t u : State}

theorem refl (s : State) : DoorsStay s s := fun _ h => h

theorem trans (h : DoorsStay s t) (h' : DoorsStay t u) : DoorsStay s u := fun d hd => h' d (h d hd)

theorem of_doors (h : t.doors = s.doors) : DoorsStay s t := fun d hd => by rwa [State.door, h]

theorem of_changes {bs : List Block} (h : State.ChangesOnly bs s t) (hb : Block.doors ∉ bs := by decide) : DoorsStay s t :=
  of_doors (h.get .doors hb)

theorem ite {c : Prop} [Decidable c] (h : DoorsStay s t) (h' : DoorsStay s u) : DoorsStay s (if c then t else u) := by
  split
  · exact h
  · exact h'

theorem setDoor (s : State) (d : Door) {r : DoorRecord} (h : (s.door d).state ≠ .absent → r.state ≠ .absent) :
    DoorsStay s (s.setDoor d r) := by
  intro d' hd
  by_cases e : d' = d
  · subst e
    rw [State.door, State.setDoor_doors_records, PerDoor.get_set_self]
    exact h hd
  · rw [State.door, State.setDoor_doors_records, PerDoor.get_set_of_ne _ _ _ _ e]
    exact hd

theorem latchEvent (s : State) (d : Door) (k : DoorEvent) : DoorsStay s (s.latchEvent d k) :=
  .ite (setDoor s d fun h => h) (refl s)

theorem latchEvents (s : State) (d : Door) (ks : List DoorEvent) : DoorsStay s (s.latchEvents d ks) := by
  unfold State.latchEvents
  induction ks generalizing s with
  | nil => exact refl s
  | cons k ks ih => exact (latchEvent s d k).trans (ih _)

theorem latchDoor (s : State) (f : DoorFaults → DoorFaults) : DoorsStay s (s.latchDoor f) := fun _ h => h

theorem stepDoor (s : State) (d : Door) {r : DoorRecord} {x : Option DoorStep}
    (hr : (s.door d).state ≠ .absent → r.state ≠ .absent) (hx : ∀ y, x = some y → y.state ≠ .absent) :
    DoorsStay s (s.stepDoor d r x) := by
  unfold State.stepDoor
  split
  · exact setDoor s d hr
  · rename_i y
    exact .trans ((setDoor s d fun _ => hx y rfl).trans (latchEvents _ _ _)) (.ite (latchDoor _ _) (refl _))

theorem offerDoor (s : State) (d : Door) (c : DoorCommand) : DoorsStay s (s.offerDoor d c) := by
  unfold State.offerDoor
  split
  · rename_i h
    exact (of_changes (State.offerSet_changes h)).trans (setDoor _ d fun h => h)
  · exact latchDoor _ _

theorem losePosition (s : State) (d : Door) (b : Bool) : DoorsStay s (s.losePosition d b) := by
  have unproven : DoorState.unproven ≠ .absent := nofun
  simp only [State.losePosition]
  refine .ite (refl s) (.trans (.trans ?_ (of_changes (State.syncReason_changes _ d))) (offerDoor _ _ _))
  exact .trans (t := if _ then _ else _)
    (.ite ((setDoor s d fun _ => unproven).trans (latchEvent _ _ _)) (setDoor s d fun _ => unproven))
    (.ite (latchDoor _ _) (refl _))

theorem doorTrigger (s : State) (d : Door) : DoorsStay s (s.doorTrigger d) := by
  simp only [State.doorTrigger]
  refine .ite (refl s) ?_
  split
  · exact losePosition s d false
  · rename_i position _
    obtain ⟨hr, hx⟩ := s.triggerOutcome_present d position
    refine .trans (.trans (.trans (stepDoor s d ?_ hx) (of_changes (State.afterTransition_changes _ _ _)))
      (.ite (latchEvent _ _ _) (refl _))) (offerDoor _ _ _)
    rw [hr]
    exact fun h => h

theorem moveDoor (s : State) (d : Door) {t : DoorState} (h : t ≠ .absent) (g : Bool) : DoorsStay s (s.moveDoor d t g) :=
  (setDoor s d fun _ => h).trans ((of_changes (State.afterTransition_changes _ d _)).trans (offerDoor _ _ _))

theorem doorRequest (s : State) (d : Door) : DoorsStay s (s.doorRequest d) := by
  have armed : ∀ (r : DoorRecord) q n, (r.arm q n).state = r.state := by
    intro r q n
    cases q <;> simp only [DoorRecord.arm] <;> split <;> rfl
  simp only [State.doorRequest]
  split
  · exact refl s
  · split
    · exact refl s
    · refine (setDoor s d fun h => ?_).trans (of_changes (State.syncReason_changes _ d))
      rwa [armed]
    · split
      · rename_i hq
        exact moveDoor s d (requestStep_present hq) _
      · exact refl s

/-- No delivery of an arrival makes a door ABSENT (R149, R151, R158, R163). -/
theorem deliver (s : State) {x : Delivery} (h : x ≠ .sync) : DoorsStay s (s.deliver x) := by
  cases x with
  | odometer => exact of_changes s.odometerTrigger_changes
  | steer => exact of_changes s.steerTrigger_changes
  | joints => exact of_changes s.jointTrigger_changes
  | brake => exact of_changes s.brakeTrigger_changes
  | level a => exact of_changes (s.levelTrigger_changes a)
  | kneelLevel => exact of_changes s.kneelLevelTrigger_changes
  | door d => exact doorTrigger s d
  | kneel => exact of_changes s.kneelTrigger_changes
  | traction => exact of_changes s.tractionNotice_changes
  | levelRequest => exact of_changes s.levelRequestNotice_changes
  | doorRequest d => exact doorRequest s d
  | brakeEcho => exact of_changes s.recomputeHalt_changes
  | echo k => exact of_changes (s.echoArrival_changes k)
  | loss l =>
    cases l with
    | height c => exact of_changes (s.heightLoss_changes c)
    | position d => exact losePosition s d false
    | brakeEcho a => exact of_changes s.recomputeHalt_changes
  | sync => exact absurd rfl h

theorem run_deliver {ds : List Delivery} (hd : .sync ∉ ds) (s : State) {order : List (Delivery × Nat)}
    (h : ∀ x ∈ order, x.1 ∈ ds) : DoorsStay s (s.run State.deliver order) :=
  State.run_induction (P := DoorsStay s) (fun _ _ ht => ht)
    (fun _ hx t ht => ht.trans (deliver t fun e => hd (e ▸ hx))) h (refl s)

end State.DoorsStay

/-! ## The whole mark -/

theorem State.FitLeft.kept {s t : State} {found : Vector SignalSlot 64} {posted : Bool} {sound : Prop}
    (h : State.FitLeft found posted sound s) (k : State.FitKept s t) : State.FitLeft found posted sound t where
  slots i := by rw [k.slots, h.slots i]
  entries i := by rw [k.path, h.entries i]
  cycle := by
    rw [k.path, State.inRun_congr k.tables, State.paramNat_congr k.tables]
    exact h.cycle
  sync hp := k.sync.trans (h.sync hp)
  limiter := k.limiter.trans h.limiter
  angles := k.angles h.angles
  echoes e := by
    obtain ⟨state, mismatch, agreement⟩ := k.echoes e
    rw [state, mismatch, agreement]
    exact h.echoes e
  rings c := ⟨(k.corners c).ring (h.rings c).1, (k.corners c).inBand (h.rings c).2⟩
  faults c hc := (k.corners c).lost (h.faults c hc)
  doors hs d hp hf := by
    rw [State.door, k.doors]
    exact h.doors hs d hp (by rw [← hf, State.fitted_congr k.tables])
  halt hb := k.confirmed.trans (h.halt hb)

/-- A mark that applies the FIT (R24, R30, R165). -/
theorem State.cycleMark_fitLeft {s : State} (h : s.wouldApplyFit = true) {sound : Prop}
    (hd : sound → ∀ d, s.fitted d = true → (s.door d).state ≠ .absent) (b : Bool) :
    State.FitLeft s.slots s.path.cycle.syncPosted sound (s.cycleMark b) :=
  (State.storeMark_fitLeft h hd).kept (State.cycleMark_fit h b)

/-- The mark of the internal timer starts the timer that the FIT's application has started already (R22, R24). -/
theorem State.FitLeft.restarted {s : State} {found : Vector SignalSlot 64} {posted : Bool} {sound : Prop}
    (h : State.FitLeft found posted sound s) : State.FitLeft found posted sound (s.setCycleTimer (some s.cyclePeriod)) := by
  obtain ⟨sync, -, postedNot⟩ := h.cycle
  exact ⟨h.slots, h.entries, ⟨sync, rfl, postedNot⟩, h.sync, h.limiter, h.angles, h.echoes, h.rings, h.faults, h.doors, h.halt⟩

theorem State.InterlocksSound.present {s : State} (h : s.InterlocksSound) (d : Door) (hf : s.fitted d = true) :
    (s.door d).state ≠ .absent := fun ha => by
  rw [(h.fitted d).mp ha] at hf
  cases hf

/-- The mark of an accepted SYNC arrival that applies the FIT (R24; log entry 5). -/
theorem State.Accepts.sync_fitLeft {s : State} {p : Port} {f : Frame} {m : Matched} (h : s.Accepts p f m)
    (hs : m.cls = .sync) (hh : s.tables.hold = false) (hf : s.tables.waiting.fit = true)
    (hstill : (s.seeing m f).stationary = true) :
    State.FitLeft (s.seeing m f).slots s.path.cycle.syncPosted s.InterlocksSound (s.frameArrival p f) := by
  obtain ⟨u, before, after, n, hu, hb, -, last, ht⟩ := h.syncArrival hs
  have applied : u.wouldApplyFit = true := (hu.wouldApplyFit h.matched.run).mpr ⟨hh, hf, hstill⟩
  obtain ⟨first, tables, -⟩ := hu.before (n := n) hb
  have stay := State.DoorsStay.run_deliver (s.sync_not_mem_deliveries m f) u hb
  set v : State := { u.run State.deliver before with orderCount := n }
  have slots : v.slots = u.slots := first.get .slots
  have path : v.path = u.path := first.get .path
  have doors : u.doors = s.doors := hu.changes.get .doors
  have fit : v.wouldApplyFit = true := by rw [State.wouldApplyFit_congr (tables.trans hu.tables.symm) slots, applied]
  have left := State.cycleMark_fitLeft fit (sound := s.InterlocksSound) (fun hi d hd => ?_) (!v.followsSync)
  · rw [slots, hu.slots, path, hu.cycle] at left
    rw [ht, last applied]
    exact left
  · refine stay d ?_
    rw [State.door, doors]
    exact hi.present d (by rw [← hd, State.fitted_congr tables])

/-- Settles O23. -/
theorem fitApplication : Obligations.FitApplication := by
  refine ⟨fun s ht hf hh hw hr => ?_, ?_, fun s hh hw hm => ?_, fun s => ⟨rfl, ?_⟩,
    fun s c d a => ⟨rfl, rfl, rfl⟩⟩
  · have fit : s.wouldApplyFit = true := s.wouldApplyFit_iff.mpr ⟨hh, hw, hr⟩
    refine ⟨s.cycleExpiry, rfl, ?_⟩
    rw [State.cycleExpiry_of_free ht hf]
    exact (State.cycleMark_fitLeft fit (fun hi d hd => hi.present d hd) false).restarted
  · intro p f m s h hs hh hw slots hstill
    exact ⟨s.frameArrival p f, rfl, h.sync_fitLeft hs hh hw hstill⟩
  · have verdict : s.markVerdict = .apply := by
      rw [State.markVerdict_eq, TableStore.verdict_eq_apply]
      refine ⟨hh, hw, fun ⟨hn, hrun, hmove⟩ => ?_⟩
      have inRun := (State.inRun_eq s).mpr hrun
      rcases hm hn with h | h
      · rw [inRun] at h
        cases h
      · rw [hmove] at h
        cases h
    exact (State.storeMark_finished verdict).applicationLeft verdict rfl
  · intro c p
    rw [State.cornerApplied_get]
    simp only [CornerRecord.applied, CornerRecord.clearRing, targetAfterApplication, clampInt]
    rfl

end Sys2Proof.Machine
end

section
/-! Guard rules: when a slot is absent, when a rule is true, and when the DRIVE_RELEASE gate opens. -/

namespace Sys2Proof.Machine

/-! ## Absent slots -/

/-- A value is out of range only of a slot whose range has bounds (R33). -/
theorem inRange_eq_false_iff (i : SlotId) (v : SlotWord) : inRange i v = false ↔
    ∃ low high, usableRange i = some (low, high) ∧ (v.toInt < low ∨ high < v.toInt) := by
  unfold inRange
  cases usableRange i with
  | none => simp
  | some range =>
    obtain ⟨low, high⟩ := range
    simp only [decide_eq_false_iff_not, Option.some.injEq, Prod.mk.injEq]
    constructor
    · intro outside
      exact ⟨low, high, ⟨rfl, rfl⟩, by omega⟩
    · rintro ⟨_, _, ⟨rfl, rfl⟩, outside⟩
      omega

/-- No number is read from a slot that is not VALID or not usable (R33). -/
theorem State.readInt_eq_none_iff (s : State) (i : SlotId) : s.readInt i = none ↔
    s.slots[i].validity ≠ .valid ∨ inRange i s.slots[i].value = false := by
  rw [State.readInt, State.readSlot, Option.map_eq_none_iff, ite_eq_right_iff]
  simp only [reduceCtorEq, imp_false, not_and_or, Bool.not_eq_true]

/-! ## Rules and gates -/

/-- The lenient predicates: true of an absent slot (R38). -/
theorem predicateUnordered_iff (p : Predicate) :
    predicateUnordered p = true ↔ p = .unord ∨ p = .ne ∨ p = .nlt ∨ p = .nle := by
  cases p <;> decide

theorem State.ruleTrue_of_absent {s : State} {r : GuardRule} (h : s.readInt r.slot = none) :
    s.ruleTrue r = predicateUnordered r.predicate := by
  rw [State.ruleTrue, h]

/-- The swap flag exchanges the operands, not the predicate (R37). -/
theorem State.ruleTrue_of_present {s : State} {r : GuardRule} {v : Int} (h : s.readInt r.slot = some v) :
    s.ruleTrue r = predicateHolds r.predicate (if r.swap then r.constant.toInt else v)
      (if r.swap then v else r.constant.toInt) := by
  rw [State.ruleTrue, h]
  cases r.swap <;> rfl

/-- Rules of other gates and rules that are not enabled have no say in a gate's rule part (R39). -/
theorem State.rulePart_iff (s : State) (g : Gate) : s.rulePart g = true ↔
    ∀ r ∈ s.guardRules, r.enabled = true → r.gate = g → s.ruleTrue r = true := by
  rw [State.rulePart, List.all_eq_true]
  refine forall₂_congr fun r _ => ?_
  cases r.enabled <;> by_cases hg : r.gate = g <;> simp [hg]

/-- Settles O32. -/
theorem guardRules : Obligations.GuardRules := by
  refine fun s => ⟨fun r absent => ?_, fun r v present => ?_, fun i => ?_, s.rulePart_iff⟩
  · rw [State.ruleTrue_of_absent absent, predicateUnordered_iff]
  · intro a b
    rw [State.ruleTrue_of_present present]
    change predicateHolds r.predicate a b = true ↔ _
    cases r.predicate <;> simp [predicateHolds]
  · rw [State.readInt_eq_none_iff, inRange_eq_false_iff]

/-! ## The halt latch -/

/-- The DRIVE_RELEASE gate (R46): an absent demand keeps it shut, as one below HALT_RELEASE_DEMAND does. -/
theorem State.driveReleaseOpen_iff (s : State) : s.driveReleaseOpen = true ↔
    (∀ m, s.board.haltSet.has m = false)
      ∧ (∃ v, s.readInt slotTractionDemand = some v ∧ s.param .haltReleaseDemand ≤ v)
      ∧ ∀ r ∈ s.guardRules, r.enabled = true → r.gate = .driveRelease → s.ruleTrue r = true := by
  rw [State.driveReleaseOpen, Bool.and_eq_true, Bool.and_eq_true, ReasonSet.isEmpty_iff, State.rulePart_iff, and_assoc]
  cases s.readInt slotTractionDemand <;> simp

/-- Settles O31: the latch is SET and the gate open, or the notice changes nothing. -/
theorem tractionNotice : Obligations.TractionNotice := by
  intro s
  rw [← State.driveReleaseOpen_iff]
  exact ⟨fun released => if_pos released, fun kept => if_neg kept⟩

end Sys2Proof.Machine
end

section
/-! Reading a schedule (R67). -/

namespace Sys2Proof.Machine

/-- A part of a rise, counted in hundredths and truncated, lies within the rise. -/
theorem tdiv_part_of_rise {d : Int} (hd : 0 ≤ d) {f : Nat} (hf : f < 100) :
    0 ≤ (d * f).tdiv 100 ∧ (d * f).tdiv 100 ≤ d := by
  have product : 0 ≤ d * f := mul_nonneg hd (by omega)
  rw [Int.tdiv_eq_ediv_of_nonneg product]
  exact ⟨Int.ediv_nonneg product (by decide),
    Int.ediv_le_of_le_mul (by decide) (mul_le_mul_of_nonneg_left (by omega) hd)⟩

/-- An interpolated value lies between its two ends, the division truncated towards the first (R67). -/
theorem interpolation_between (a b : Int) {f : Nat} (hf : f < 100) :
    min a b ≤ a + ((b - a) * f).tdiv 100 ∧ a + ((b - a) * f).tdiv 100 ≤ max a b := by
  obtain h | h := le_total a b
  · have := tdiv_part_of_rise (sub_nonneg.mpr h) hf
    omega
  · have := tdiv_part_of_rise (sub_nonneg.mpr h) hf
    have flipped : ((b - a) * f).tdiv 100 = -((a - b) * f).tdiv 100 := by
      rw [← Int.neg_tdiv, ← neg_mul, neg_sub]
    omega

/-- A schedule at a speed between two of its points (R67). -/
theorem scheduleAt_between (y : Schedule) (k : Fin 8) {f : Nat} (hf : f < 100) :
    scheduleAt y (100 * k + f) = (y[k.val] : Nat) + (((y[k.val + 1] : Nat) - (y[k.val] : Nat) : Int) * f).tdiv 100 := by
  have hk := k.isLt
  have point : (100 * k.val + f) / 100 = k.val := by omega
  have offset : ((100 * k.val + f : Nat) : Int) - 100 * (k.val : Nat) = f := by omega
  simp only [scheduleAt, point, offset, if_neg (not_le.mpr hk), vget, dif_pos (show k.val < 9 by omega),
    dif_pos (show k.val + 1 < 9 by omega)]

theorem scheduleAt_top (y : Schedule) : scheduleAt y 800 = (y[8] : Nat) := rfl

/-- Settles O36. -/
theorem scheduleReading : Obligations.ScheduleReading := by
  refine ⟨fun y k f hf => ?_, scheduleAt_top, fun s => ⟨fun hs => ?_, fun v hs => ?_⟩⟩
  · intro a b v
    have value : v = a + ((b - a) * f).tdiv 100 := scheduleAt_between y k hf
    obtain ⟨lower, upper⟩ := interpolation_between a b hf
    exact ⟨value, value ▸ lower, value ▸ upper, fun h0 => by simp [value, h0]⟩
  · simp only [State.scheduleSpeed, hs]
  · simp only [State.scheduleSpeed, hs, clampInt]
    omega

end Sys2Proof.Machine
end

section
/-! Echo records at an emission, an echo arrival and an expiry of the echo timer (R167 to R170). -/

namespace Sys2Proof.Machine

/-! ## A match and a mismatch counted -/

/-- A record with a mismatch counted, its timer as given (R169, R170). -/
def EchoRecord.missed (r : EchoRecord) (t : Timer) : EchoRecord :=
  { r with
    mismatch := min (r.mismatch + 1) 3, agreement := 0, timer := t
    state := if r.state = .agree ∧ 3 ≤ r.mismatch + 1 then .disagree else r.state }

/-- A mismatch settled: the third one in AGREE enters DISAGREE and is latched, and no mismatch recovers (R169, R170). -/
theorem State.settleEcho_mismatch (s : State) (k : EchoKind) (r : EchoRecord) (t : Timer) (b : Bool) :
    s.settleEcho k { r.count false with timer := t } b = { s with echoes := {
      records := s.echoes.records.set k (r.missed t)
      faults := if r.state = .agree ∧ 3 ≤ r.mismatch + 1 then s.echoes.faults.latch k else s.echoes.faults } } := by
  have third : min (r.mismatch + 1) 3 = 3 ↔ 3 ≤ r.mismatch + 1 := by omega
  cases hs : r.state with
  | agree =>
    by_cases h3 : 3 ≤ r.mismatch + 1 <;>
      simp [State.settleEcho, EchoRecord.settle, EchoRecord.count, EchoRecord.missed, hs, third, h3, State.setEcho]
  | disagree => simp [State.settleEcho, EchoRecord.settle, EchoRecord.count, EchoRecord.missed, hs, State.setEcho]

/-- A match settled: the tenth in a row in DISAGREE, with the vehicle stationary, returns to AGREE (R168, R170). -/
theorem State.settleEcho_match (s : State) (k : EchoKind) (r : EchoRecord) (t : Timer) (b : Bool) :
    s.settleEcho k { r.count true with timer := t } b = { s with echoes := { s.echoes with
      records := s.echoes.records.set k (
        if r.state = .disagree ∧ 10 ≤ r.agreement + 1 ∧ b = true then
          { r with mismatch := 0, agreement := 0, state := .agree, timer := t }
        else { r with mismatch := 0, agreement := min (r.agreement + 1) 10, timer := t }) } } := by
  have tenth : min (r.agreement + 1) 10 = 10 ↔ 10 ≤ r.agreement + 1 := by omega
  cases hs : r.state with
  | agree => simp [State.settleEcho, EchoRecord.settle, EchoRecord.count, hs, State.setEcho]
  | disagree =>
    by_cases hr : b = true ∧ 10 ≤ r.agreement + 1 <;>
      simp [State.settleEcho, EchoRecord.settle, EchoRecord.count, hs, tenth, State.setEcho, hr, and_comm]

/-! ## The three events -/

theorem State.echoEmission_of_spec {s : State} {k : EchoKind} {e : EchoSpec} (h : s.echoSpec k = some e) (v : Int) :
    s.echoEmission k v = s.setEcho k { s.echoes.records.get k with
      previous := (s.echoes.records.get k).newest, newest := some v, timer := some e.deadline } := by
  simp only [State.echoEmission, h]

theorem State.echoArrival_of_spec {s : State} {k : EchoKind} {e : EchoSpec} {v : Int} (h : s.echoSpec k = some e)
    (hv : (s.echoes.records.get k).newest = some v) :
    s.echoArrival k = s.settleEcho k { (s.echoes.records.get k).count (s.echoMatches k e (s.echoes.records.get k)) with
      timer := some e.deadline } s.stationary := by
  simp only [State.echoArrival, h]
  rw [if_neg (by simp [hv])]

theorem State.echoExpiry_of_spec {s : State} {k : EchoKind} {e : EchoSpec} (ht : (s.echoes.records.get k).timer ≠ none)
    (h : s.echoSpec k = some e) :
    s.echoExpiry k = s.settleEcho k { (s.echoes.records.get k).count false with timer := some e.deadline } false := by
  simp only [State.echoExpiry, if_neg ht, h]

/-- An echo matches where it lies within the tolerance of the newest value or of the one before it (R168). -/
theorem State.echoMatches_iff {s : State} {k : EchoKind} {e : EchoSpec} {r : EchoRecord} {newest : Int}
    (hn : r.newest = some newest) : s.echoMatches k e r = true ↔ ∃ echo, s.readSlot e.slot = some echo
      ∧ ((echoDifference k echo newest).natAbs ≤ e.tolerance
        ∨ ∃ v, r.previous = some v ∧ (echoDifference k echo v).natAbs ≤ e.tolerance) := by
  unfold State.echoMatches
  cases s.readSlot e.slot with
  | none => simp
  | some echo => cases hp : r.previous <;> simp [hn, echoNear]

/-! ## The emissions of an admitted set -/

/-- The echo records after the emissions of a steer set (R81, R167). -/
def State.steerEchoes (s : State) (c3 c4 : SteerCommand) : Echoes :=
  ((s.echoEmission (.steer .a3) (commandAngle c3)).echoEmission (.steer .a4) (commandAngle c4)).echoes

theorem State.echoEmission_tables (s : State) (k : EchoKind) (v : Int) : (s.echoEmission k v).tables = s.tables := by
  rw [State.echoEmission_frame]

theorem State.steerEchoes_congr {s t : State} (ht : t.tables = s.tables) (he : t.echoes = s.echoes)
    (c3 c4 : SteerCommand) : t.steerEchoes c3 c4 = s.steerEchoes c3 c4 :=
  State.echoEmission_echoes_congr (by rw [State.echoEmission_tables, State.echoEmission_tables, ht])
    (State.echoEmission_echoes_congr ht he _ _) _ _

/-- The frames of a steer set (R80, 12.6). -/
def State.steerFrames (s : State) (c3 c4 : SteerCommand) : List Frame :=
  s.emitFrames [(.steer .a3, steerData c3), (.steer .a4, steerData c4)]

/-- The command of one rear axle out of a set's two. -/
def commandOf (c3 c4 : SteerCommand) : Rear → SteerCommand
  | .a3 => c3
  | .a4 => c4

theorem State.steerEmitted_tables (s : State) (r : Rear) (c : SteerCommand) : (s.steerEmitted r c).tables = s.tables := by
  rw [State.steerEmitted_eq]

theorem State.steerEmitted_echoes {s u : State} (ht : u.tables = s.tables) (he : u.echoes = s.echoes) (r : Rear)
    (c : SteerCommand) : (u.steerEmitted r c).echoes = (s.echoEmission (.steer r) (commandAngle c)).echoes := by
  rw [State.steerEmitted_eq]
  exact State.echoEmission_echoes_congr ht he _ _

/-- The offer of a steer set: admitted with its emissions, or refused with EGRESS_DROP (R18, R81, R167). -/
theorem State.offerSteer_eq (s : State) (c3 c4 : SteerCommand) : s.offerSteer c3 c4 =
    match s.ports.d.admission .priority (s.steerFrames c3 c4) with
    | some y => { s with
        ports := s.ports.set .d y
        steering := { s.steering with rear := PerRear.ofFn fun r =>
          { s.steering.rear.get r with lastAngle := commandAngle (commandOf c3 c4 r) } }
        echoes := s.steerEchoes c3 c4 }
    | none => s.latchSteering fun f => { f with egressDrop := true } := by
  have told : ∀ u : State, u.tables = s.tables → u.echoes = s.echoes →
      ((u.steerEmitted .a3 c3).echoEmission (.steer .a4) (commandAngle c4)).echoes = s.steerEchoes c3 c4 :=
    fun u ht he => State.echoEmission_echoes_congr
      (by rw [State.steerEmitted_tables, State.echoEmission_tables, ht]) (State.steerEmitted_echoes ht he _ _) _ _
  have offered : s.offerSet .d .priority (s.emitFrames [(.steer .a3, steerData c3), (.steer .a4, steerData c4)])
      = match s.ports.d.admission .priority (s.steerFrames c3 c4) with
        | some y => some { s with ports := s.ports.set .d y }
        | none => none := rfl
  unfold State.offerSteer
  rw [offered]
  cases s.ports.d.admission .priority (s.steerFrames c3 c4) with
  | none => rfl
  | some y =>
    show State.steerEmitted (State.steerEmitted { s with ports := s.ports.set .d y } .a3 c3) .a4 c4 = _
    rw [State.steerEmitted_eq _ .a4, told { s with ports := s.ports.set .d y } rfl rfl, State.steerEmitted_eq _ .a3]
    rfl

/-- The echo records after the emissions of a brake set depend on the tables and the records alone (R104, R167). -/
theorem State.brakesEmitted_echoes_congr {s t : State} (ht : t.tables = s.tables) (he : t.echoes = s.echoes)
    (p : PerAxle Nat) : (t.brakesEmitted p).echoes = (s.brakesEmitted p).echoes := by
  have step : ∀ (as : List Axle) (u v : State), v.tables = u.tables → v.echoes = u.echoes →
      (as.foldl (fun w a => w.echoEmission (.brake a) (p.get a)) v).echoes
        = (as.foldl (fun w a => w.echoEmission (.brake a) (p.get a)) u).echoes := by
    intro as
    induction as with
    | nil => exact fun u v _ h => h
    | cons a as ih =>
      exact fun u v ht he => ih _ _ (by rw [State.echoEmission_tables, State.echoEmission_tables, ht])
        (State.echoEmission_echoes_congr ht he _ _)
  exact step _ s t ht he

theorem State.brakesEmitted_eq (s : State) (p : PerAxle Nat) : s.brakesEmitted p =
    (((s.echoEmission (.brake .a1) p.a1).echoEmission (.brake .a2) p.a2).echoEmission (.brake .a3) p.a3).echoEmission
      (.brake .a4) p.a4 := rfl

/-- The pressures of a computation (R99, R103). -/
def State.pressures (s : State) (demand : Nat) : PerAxle Nat :=
  PerAxle.ofFn fun a => s.axlePressure a (s.axleLoad a).1 demand

/-- The state in which a pressure computation offers its set: loads and speed limit settled (R99, R109). -/
def State.loadsSettled (s : State) : State := (s.recordLoads (PerAxle.ofFn s.axleLoad)).brakeLimit

theorem State.loadsSettled_changes (s : State) : State.ChangesOnly [.brakes, .board] s s.loadsSettled :=
  .comp (s.recordLoads_changes _) (State.brakeLimit_changes _)

theorem State.emitFrames_eq_of_tables {s t : State} (h : t.tables = s.tables) : t.emitFrames = s.emitFrames := by
  funext ks
  simp only [State.emitFrames, State.emitFrame, State.emitEntry_congr h]

/-- A pressure computation and its output set: admitted with its emissions, or refused with EGRESS_DROP (R18, R104,
R167). -/
theorem State.computePressures_eq (s : State) (demand : Nat) : s.computePressures demand =
    match s.ports.d.admission .priority (s.emitFrames (brakeFrames (s.pressures demand))) with
    | some y => ({ s.loadsSettled with ports := s.ports.set .d y } : State).brakesEmitted (s.pressures demand)
    | none => s.loadsSettled.latchBrake fun f => { f with egressDrop := true } := by
  have ports : s.loadsSettled.ports = s.ports := s.loadsSettled_changes.get .ports
  have offered : s.loadsSettled.offerSet .d .priority (s.loadsSettled.emitFrames (brakeFrames (s.pressures demand)))
      = match s.ports.d.admission .priority (s.emitFrames (brakeFrames (s.pressures demand))) with
        | some y => some { s.loadsSettled with ports := s.ports.set .d y }
        | none => none := by
    rw [State.emitFrames_eq_of_tables (s.loadsSettled_changes.get .tables), State.offerSet, ports]
    rfl
  have computed : s.computePressures demand =
      match s.loadsSettled.offerSet .d .priority (s.loadsSettled.emitFrames (brakeFrames (s.pressures demand))) with
      | some t => t.brakesEmitted (s.pressures demand)
      | none => s.loadsSettled.latchBrake fun f => { f with egressDrop := true } := rfl
  rw [computed, offered]
  cases s.ports.d.admission .priority (s.emitFrames (brakeFrames (s.pressures demand))) <;> rfl

/-- Settles O51, event by event. -/
theorem echoTimerExpiry : Obligations.EchoTimerExpiry := by
  refine ⟨fun k s => ⟨fun ht => ?_, fun e ht hk => ?_⟩,
    fun k s => ⟨fun hn => ?_, fun e newest hk hv => ⟨fun hit => ?_, fun hit => ?_⟩⟩, fun k s v => ⟨fun hn => ?_, fun e hk => ?_⟩, fun s c3 c4 => ⟨fun y hy => ?_, fun hn => ?_⟩,
    fun s demand => ⟨fun y hy => ?_, fun hn => ?_⟩⟩
  · show Host.Outcome.next (s.echoExpiry k) = _
    rw [State.echoExpiry, if_pos ht]
  · show Host.Outcome.next (s.echoExpiry k) = _
    rw [State.echoExpiry_of_spec ht hk, State.settleEcho_mismatch]
    rfl
  · obtain hn | hn := hn
    · simp only [State.echoArrival, hn]
    · simp only [State.echoArrival, hn, if_true]
      split <;> rfl
  · have found : s.echoMatches k e (s.echoes.records.get k) = true := by
      rw [State.echoMatches_iff hv]
      cases k <;> exact hit
    rw [State.echoArrival_of_spec hk hv, found, State.settleEcho_match]
  · have missed : s.echoMatches k e (s.echoes.records.get k) = false := by
      rw [← Bool.not_eq_true, State.echoMatches_iff hv]
      cases k <;> exact hit
    rw [State.echoArrival_of_spec hk hv, missed, State.settleEcho_mismatch]
    rfl
  · simp only [State.echoEmission, hn]
  · rw [State.echoEmission_of_spec hk]
    rfl
  · rw [State.offerSteer_eq, State.steerFrames, hy]
    rfl
  · rw [State.offerSteer_eq, State.steerFrames, hn]
    rfl
  · have set : s.ports.d.admission .priority (s.emitFrames (brakeFrames (s.pressures demand))) = some y := hy
    rw [State.computePressures_eq, set]
    have emitted := State.brakesEmitted_echoes_congr (s := s) (t := { s.loadsSettled with ports := s.ports.set .d y })
      (s.loadsSettled_changes.get .tables) (s.loadsSettled_changes.get .echoes) (s.pressures demand)
    rw [s.brakesEmitted_eq] at emitted
    exact ⟨(State.brakesEmitted_changes _ _).get .ports, emitted⟩
  · have set : s.ports.d.admission .priority (s.emitFrames (brakeFrames (s.pressures demand))) = none := hn
    have kept := s.loadsSettled_changes
    rw [State.computePressures_eq, set]
    exact ⟨kept.get .ports, kept.get .echoes, rfl⟩

end Sys2Proof.Machine
end

section
/-! The track memory at an odometer value, and what an ODOMETER trigger leaves (R60 to R66). -/

namespace Sys2Proof.Machine

/-! ## Marks laid -/

/-- The marks that forward motion lays: `n` of them from a position on, a pitch apart (R63). -/
def laidMarks (pitch : Nat) (h : Angle) (n : Nat) (at' : Cm) : List TrackMark :=
  (List.range n).map fun k => { position := at' + BitVec.ofNat 32 (k * pitch), heading := h }

theorem laidMarks_succ (pitch : Nat) (h : Angle) (n : Nat) (at' : Cm) : laidMarks pitch h (n + 1) at' =
    { position := at', heading := h } :: laidMarks pitch h n (at' + BitVec.ofNat 32 pitch) := by
  have next : ∀ k, BitVec.ofNat 32 ((k + 1) * pitch) = BitVec.ofNat 32 pitch + BitVec.ofNat 32 (k * pitch) := fun k => by
    rw [← BitVec.ofNat_add, Nat.succ_mul, Nat.add_comm]
  simp [laidMarks, List.range_succ_eq_map, Function.comp_def, next, BitVec.add_assoc]

theorem appendMark_eq (marks : List TrackMark) (m : TrackMark) (h : marks.length ≤ 256) :
    appendMark marks m = (marks ++ [m]).drop (marks.length - 255) := by
  unfold appendMark
  split
  · rw [show marks.length = 256 by omega]
    exact (List.drop_append_of_le_length (by omega)).symm
  · rw [show marks.length - 255 = 0 by omega, List.drop_zero]

theorem length_appendMark (marks : List TrackMark) (m : TrackMark) (h : marks.length ≤ 256) :
    (appendMark marks m).length ≤ 256 := by
  rw [appendMark_eq marks m h, List.length_drop, List.length_append, List.length_singleton]
  omega

/-- Of the marks with those laid behind them the newest 256 stay (R60, R63). -/
theorem appendMarks_eq (pitch : Nat) (h : Angle) (n : Nat) (at' : Cm) (marks : List TrackMark) (hm : marks.length ≤ 256) :
    appendMarks pitch h n at' marks = (marks ++ laidMarks pitch h n at').drop (marks.length + n - 256) := by
  induction n generalizing at' marks with
  | zero => simp [appendMarks, laidMarks, hm]
  | succ n ih =>
    rw [appendMarks, ih _ _ (length_appendMark _ _ hm), laidMarks_succ, appendMark_eq marks _ hm, List.length_drop,
      ← List.drop_append_of_le_length (by simp; omega), List.drop_drop, List.append_assoc, List.singleton_append]
    have dropped : marks.length - 255 + (marks.length + 1 - (marks.length - 255) + n - 256)
        = marks.length + (n + 1) - 256 := by omega
    rw [List.length_append, List.length_singleton, dropped]

/-! ## Motion of the track -/

theorem gridPoints_of_neg {pitch : Nat} {at' x : Cm} (h : posDiff x at' < 0) : gridPoints pitch at' x = 0 := if_pos h

theorem gridPoints_of_nonneg {pitch : Nat} {at' x : Cm} (h : 0 ≤ posDiff x at') :
    gridPoints pitch at' x = (posDiff x at').toNat / pitch + 1 := if_neg (not_lt.mpr h)

theorem gridPoints_ne_zero {pitch : Nat} {at' x : Cm} (h : 0 ≤ posDiff x at') : gridPoints pitch at' x ≠ 0 := by
  rw [gridPoints_of_nonneg h]
  exact Nat.succ_ne_zero _

namespace Track

variable {t : Track} {pitch : Nat} {x : Cm} {heading : Option Angle}

/-- The track memory started again at a position (R63, R64). -/
def fresh (t : Track) (pitch : Nat) (x : Cm) (heading : Option Angle) : Track :=
  ({ t with lastOdo := some x }).start pitch x heading

/-- Forward motion breaks a track that holds marks: more than eight grid points, or no heading at one (R63, R64). -/
def breaks (t : Track) (pitch : Nat) (x : Cm) (heading : Option Angle) : Prop :=
  t.marks ≠ [] ∧ 0 ≤ posDiff x t.nextPos ∧ (8 < gridPoints pitch t.nextPos x ∨ heading = none)

theorem forward_of_empty (h : t.marks = []) : t.forward pitch x heading = (t.fresh pitch x heading, false) := if_pos h

theorem forward_of_short (hm : t.marks ≠ []) (h : posDiff x t.nextPos < 0) :
    t.forward pitch x heading = ({ t with lastOdo := some x }, false) := by
  simp only [forward, if_neg hm, gridPoints_of_neg h, if_true]

theorem forward_of_laid {h : Angle} (hm : t.marks ≠ []) (hx : 0 ≤ posDiff x t.nextPos)
    (hn : gridPoints pitch t.nextPos x ≤ 8) : t.forward pitch x (some h) =
      ({ marks := appendMarks pitch h (gridPoints pitch t.nextPos x) t.nextPos t.marks, lastOdo := some x
         nextPos := t.nextPos + BitVec.ofNat 32 (gridPoints pitch t.nextPos x * pitch) }, false) := by
  simp only [forward, if_neg hm, if_neg (gridPoints_ne_zero hx), if_pos hn]

theorem forward_of_breaks (h : t.breaks pitch x heading) :
    t.forward pitch x heading = (t.fresh pitch x heading, true) := by
  obtain ⟨hm, hx, hb⟩ := h
  simp only [forward, if_neg hm, if_neg (gridPoints_ne_zero hx)]
  cases heading with
  | none => rfl
  | some h => exact if_neg (by simpa using hb)

/-- Motion is forward at the first odometer value and at one beyond the last (R61, R62). -/
def movesOn (t : Track) (x : Cm) : Prop := ∀ last, t.lastOdo = some last → 0 < posDiff x last

theorem sample_of_movesOn (h : t.movesOn x) : t.sample pitch x heading = t.forward pitch x heading := by
  unfold sample
  split
  · rfl
  · rename_i last hl
    have := h last hl
    rw [if_neg (by omega), if_neg (by omega)]

theorem sample_of_back {last : Cm} (hl : t.lastOdo = some last) (h : posDiff x last < -2) :
    t.sample pitch x heading = ({ marks := [], lastOdo := some x, nextPos := x }, false) := by
  simp only [sample, hl, if_pos h]

theorem sample_of_jitter {last : Cm} (hl : t.lastOdo = some last) (h : -2 ≤ posDiff x last) (h0 : posDiff x last ≤ 0) :
    t.sample pitch x heading = (t, false) := by
  simp only [sample, hl, if_neg (not_lt.mpr h), if_pos h0]

/-- What an odometer value can do to the track memory (R61 to R64). -/
theorem sample_cases (t : Track) (pitch : Nat) (x : Cm) (heading : Option Angle) :
    t.sample pitch x heading = ({ marks := [], lastOdo := some x, nextPos := x }, false)
      ∨ t.sample pitch x heading = (t, false)
      ∨ t.movesOn x ∧ (t.marks = [] ∧ t.sample pitch x heading = (t.fresh pitch x heading, false)
        ∨ t.marks ≠ [] ∧ posDiff x t.nextPos < 0 ∧ t.sample pitch x heading = ({ t with lastOdo := some x }, false)
        ∨ (∃ h, heading = some h ∧ t.marks ≠ [] ∧ 0 ≤ posDiff x t.nextPos ∧ gridPoints pitch t.nextPos x ≤ 8
          ∧ t.sample pitch x heading =
            ({ marks := appendMarks pitch h (gridPoints pitch t.nextPos x) t.nextPos t.marks, lastOdo := some x
               nextPos := t.nextPos + BitVec.ofNat 32 (gridPoints pitch t.nextPos x * pitch) }, false))
        ∨ t.breaks pitch x heading ∧ t.sample pitch x heading = (t.fresh pitch x heading, true)) := by
  by_cases on : t.movesOn x
  · refine .inr (.inr ⟨on, ?_⟩)
    rw [sample_of_movesOn on]
    by_cases hm : t.marks = []
    · exact .inl ⟨hm, forward_of_empty hm⟩
    by_cases hx : posDiff x t.nextPos < 0
    · exact .inr (.inl ⟨hm, hx, forward_of_short hm hx⟩)
    by_cases hb : 8 < gridPoints pitch t.nextPos x ∨ heading = none
    · have breaks : t.breaks pitch x heading := ⟨hm, not_lt.mp hx, hb⟩
      exact .inr (.inr (.inr ⟨breaks, forward_of_breaks breaks⟩))
    · obtain ⟨hn, hh⟩ := not_or.mp hb
      obtain ⟨h, rfl⟩ := Option.ne_none_iff_exists'.mp hh
      exact .inr (.inr (.inl ⟨h, rfl, hm, not_lt.mp hx, not_lt.mp hn, forward_of_laid hm (not_lt.mp hx) (not_lt.mp hn)⟩))
  · obtain ⟨last, hl, h0⟩ : ∃ last, t.lastOdo = some last ∧ posDiff x last ≤ 0 := by
      simpa [movesOn] using on
    by_cases hb : posDiff x last < -2
    · exact .inl (sample_of_back hl hb)
    · exact .inr (.inl (sample_of_jitter hl (not_lt.mp hb) h0))

/-- The track is found broken exactly at a forward motion that breaks it (R63, R64). -/
theorem sample_broken_iff : (t.sample pitch x heading).2 = true ↔ t.movesOn x ∧ t.breaks pitch x heading := by
  refine ⟨fun h => ?_, fun ⟨on, hb⟩ => by rw [sample_of_movesOn on, forward_of_breaks hb]⟩
  obtain he | he | ⟨on, ⟨-, he⟩ | ⟨-, -, he⟩ | ⟨_, -, -, -, -, he⟩ | ⟨hb, he⟩⟩ := t.sample_cases pitch x heading
  all_goals rw [he] at h
  · cases h
  · cases h
  · cases h
  · cases h
  · cases h
  · exact ⟨on, hb⟩

end Track

/-! ## Coverage -/

/-- An axle is covered while its lookup position lies between the oldest mark and the newest (R66). -/
theorem State.covered_iff (s : State) (r : Rear) : s.covered r = true ↔ ∃ odo m, s.track.lastOdo = some odo
    ∧ s.track.marks.head? = some m ∧ 2 ≤ s.track.marks.length ∧ 0 ≤ posDiff (s.lookupPos r odo) m.position
    ∧ posDiff (s.lookupPos r odo) m.position < (s.track.marks.length - 1 : Nat) * (s.pitch : Int) := by
  unfold State.covered
  cases s.track.lastOdo with
  | none => simp
  | some odo =>
    match s.track.marks with
    | [] => simp
    | [m] => simp
    | m :: m' :: ms => simp

theorem State.covered_congr {s t : State} (ht : t.tables = s.tables) (hk : t.track = s.track) : t.covered = s.covered := by
  funext r
  unfold State.covered State.lookupPos State.pitch
  rw [hk, State.axleParams_congr ht, State.paramNat_congr ht]

/-- A rear record with its coverage judged (R66). -/
def State.judged (s : State) (r : Rear) : RearRecord :=
  { s.steering.rear.get r with
    mode := if (s.steering.rear.get r).mode = .follow ∧ s.covered r = false then .centre else (s.steering.rear.get r).mode }

theorem State.checkCoverage_eq (s : State) (r : Rear) : s.checkCoverage r = s.setRear r (s.judged r) := by
  have same : s.steering.rear.set r (s.steering.rear.get r) = s.steering.rear := by cases r <;> rfl
  by_cases h : (s.steering.rear.get r).mode = .follow ∧ s.covered r = false
  · simp [State.checkCoverage, State.judged, h.1, h.2]
  · rw [State.checkCoverage, if_neg (by simpa using h), State.judged, if_neg h, State.setRear, same]

theorem State.checkCoverages_eq (s : State) : s.checkCoverages =
    { s with steering := { s.steering with rear := PerRear.ofFn s.judged } } := by
  rw [State.checkCoverages, State.checkCoverage_eq, State.checkCoverage_eq]
  rfl

/-! ## The trigger -/

/-- The track memory and the broken flag after an odometer value (R61 to R64). -/
def State.sampled (s : State) (x : Cm) : Track × Bool := s.track.sample s.pitch x s.pathHeading

/-- An ODOMETER trigger: the track memory, TRACK_BROKEN, and both axles' coverage (R61 to R66). -/
theorem State.odometerTrigger_eq {s : State} {x : Cm} (h : s.readSlot slotOdometer = some x) : s.odometerTrigger = { s with
    track := (s.sampled x).1
    steering := { s.steering with
      rear := PerRear.ofFn (State.judged { s with track := (s.sampled x).1 })
      faults := { s.steering.faults with trackBroken := s.steering.faults.trackBroken || (s.sampled x).2 } } } := by
  simp only [State.odometerTrigger, h]
  show State.checkCoverages (if (s.sampled x).2 = true then _ else _) = _
  rw [State.checkCoverages_eq]
  cases (s.sampled x).2 with
  | false => rw [Bool.or_false]; rfl
  | true => rw [Bool.or_true]; rfl

theorem State.odometerTrigger_of_none {s : State} (h : s.readSlot slotOdometer = none) : s.odometerTrigger = s := by
  simp only [State.odometerTrigger, h]

end Sys2Proof.Machine
end

section
/-! The steering unit at a STEER trigger (R69 to R81). -/

namespace Sys2Proof.Machine

/-! ## Inputs and modes -/

/-- An input of a rear axle that does not count as VALID, or its actuator in DISAGREE (R69). -/
def State.Distrusts (s : State) (r : Rear) : Prop :=
  s.disagrees (.steer r) = true ∨ s.readSlot slotHeading1 = none ∨ s.readSlot (slotJoint .j1) = none
    ∨ s.readSlot slotOdometer = none ∨ (r = .a4 ∧ s.readSlot (slotJoint .j2) = none)

theorem State.distrusts_iff (s : State) (r : Rear) :
    (s.inputsMissing r || s.disagrees (.steer r)) = true ↔ s.Distrusts r := by
  have present : ∀ i, s.present i = false ↔ s.readSlot i = none := fun i => by
    simp [State.present]
  cases r with
  | a3 =>
    simp [State.inputsMissing, State.Distrusts, present]
    tauto
  | a4 =>
    simp [State.inputsMissing, State.Distrusts, present]
    tauto

theorem State.notReverse_iff (s : State) :
    s.notReverse = true ↔ s.readInt slotDirection = some 0 ∨ s.readInt slotDirection = some 1 := by
  unfold State.notReverse
  cases s.readInt slotDirection <;> simp

theorem State.modeStep_of_distrusts {s : State} {r : Rear} (h : s.Distrusts r) : s.modeStep r = .locked := by
  simp only [State.modeStep, (s.distrusts_iff r).mpr h, if_true]

theorem State.modeStep_of_locked {s : State} {r : Rear} (h : ¬s.Distrusts r) (hl : (s.steering.rear.get r).mode = .locked) :
    s.modeStep r = if s.stationary then .centre else .locked := by
  rw [← State.distrusts_iff] at h
  simp only [State.modeStep, if_neg h, hl]

theorem State.modeStep_of_unlocked {s : State} {r : Rear} (h : ¬s.Distrusts r)
    (hl : (s.steering.rear.get r).mode ≠ .locked) :
    s.modeStep r = if s.covered r && s.notReverse then .follow else .centre := by
  rw [← State.distrusts_iff] at h
  simp only [State.modeStep, if_neg h]
  cases hm : (s.steering.rear.get r).mode with
  | locked => exact absurd hm hl
  | centre => rfl
  | follow => rfl

/-! ## Demands -/

/-- The raw demand between two marks (R73 to R75). -/
theorem State.rawDemand_between {s : State} {r : Rear} {odo : Cm} {m a b : TrackMark} (ho : s.track.lastOdo = some odo)
    (hm : s.track.marks.head? = some m) {place : Nat} (hp : place = (posDiff (s.lookupPos r odo) m.position).toNat)
    (ha : s.track.marks[place / s.pitch]? = some a) (hb : s.track.marks[place / s.pitch + 1]? = some b) :
    s.rawDemand r = wd (a.heading + BitVec.ofInt 16 ((wd b.heading a.heading * (place % s.pitch : Nat)).tdiv s.pitch))
      (s.sectionHeading r) := by
  obtain ⟨ms, hms⟩ := List.head?_eq_some_iff.mp hm
  have demand : s.rawDemand r = wd (pathHeadingAt s.track.marks s.pitch place) (s.sectionHeading r) := by
    rw [hp]
    simp only [State.rawDemand, ho, hms]
  rw [demand]
  simp only [pathHeadingAt, ha, hb, Option.getD_some]

theorem State.sectionHeading_eq {s : State} {h j1 : Angle} (hh : s.readAngle slotHeading1 = some h)
    (h1 : s.readAngle (slotJoint .j1) = some j1) : s.sectionHeading .a3 = h - j1
      ∧ ∀ j2, s.readAngle (slotJoint .j2) = some j2 → s.sectionHeading .a4 = h - j1 - j2 := by
  refine ⟨?_, fun j2 h2 => ?_⟩
  · simp only [State.sectionHeading, hh, h1, Option.getD_some]
  · simp only [State.sectionHeading, hh, h1, h2, Option.getD_some]

/-! ## Commands -/

/-- The demand of a rear axle in its new mode, brought within the rate of the last angle command (R79). -/
def State.ratedAngle (s : State) (r : Rear) : Int :=
  rateStage (s.steering.rear.get r).lastAngle (s.rearDemand r (s.modeStep r)) (s.axleParams (rearAxle r)).rate

/-- The rate stage has left the limit (R79). -/
abbrev State.Escapes (s : State) (r : Rear) : Prop :=
  s.modeStep r ≠ .locked ∧ s.rearBound r < (s.ratedAngle r).natAbs

/-- The mode of a rear axle after a STEER trigger (R70, R79). -/
def State.settledMode (s : State) (r : Rear) : AxleMode := if s.Escapes r then .locked else s.modeStep r

/-- The command of a rear axle at a STEER trigger (R79, R80). -/
def State.settledCommand (s : State) (r : Rear) : SteerCommand :=
  if s.modeStep r = .locked ∨ s.Escapes r then .lock else .angle (s.ratedAngle r)

/-- The speed-limit kind of a rear axle after a STEER trigger (R72, R79). -/
def State.settledLimit (s : State) (r : Rear) : Option Nat :=
  if s.modeStep r = .locked ∨ s.Escapes r then some (s.paramNat (rearLimit r).param)
  else if (s.steering.rear.get r).mode = .locked then none else s.board.limits.get (rearLimit r)

theorem State.settledMode_eq_locked (s : State) (r : Rear) :
    s.settledMode r = .locked ↔ s.modeStep r = .locked ∨ s.Escapes r := by
  by_cases h : s.Escapes r
  · exact ⟨fun _ => .inr h, fun _ => if_pos h⟩
  · have stays : s.settledMode r = s.modeStep r := if_neg h
    rw [stays]
    exact ⟨.inl, fun locked => locked.resolve_right h⟩

theorem State.rearCommand_modeStep (s : State) (r : Rear) :
    s.rearCommand r (s.modeStep r) = (s.settledCommand r, decide (s.Escapes r)) := by
  unfold State.rearCommand
  by_cases hl : s.modeStep r = .locked
  · have command : s.settledCommand r = .lock := if_pos (.inl hl)
    rw [command, if_pos hl, decide_eq_false fun h => h.1 hl]
  · rw [if_neg hl]
    by_cases he : s.rearBound r < (s.ratedAngle r).natAbs
    · have escapes : s.Escapes r := ⟨hl, he⟩
      have command : s.settledCommand r = .lock := if_pos (.inr escapes)
      rw [command, decide_eq_true escapes]
      exact if_neg (not_le.mpr he)
    · have stays : ¬s.Escapes r := fun h => he h.2
      have command : s.settledCommand r = .angle (s.ratedAngle r) := if_neg (not_or.mpr ⟨hl, stays⟩)
      rw [command, decide_eq_false stays]
      exact if_pos (not_lt.mp he)

/-- One rear axle settled: its mode, the fault of an escape, its speed-limit kind, and its command (R69 to R80). -/
theorem State.settleRear_eq (s : State) (r : Rear) : s.settleRear r =
    ({ s with
        steering := { s.steering with
          rear := s.steering.rear.set r { s.steering.rear.get r with mode := s.settledMode r }
          faults := { s.steering.faults with limitEscape := s.steering.faults.limitEscape || decide (s.Escapes r) } }
        board := { s.board with limits := s.board.limits.set (rearLimit r) (s.settledLimit r) } },
      s.settledCommand r) := by
  have same : s.board.limits.set (rearLimit r) (s.board.limits.get (rearLimit r)) = s.board.limits := by
    cases r <;> rfl
  have locks := s.settledMode_eq_locked r
  simp only [State.settleRear, s.rearCommand_modeStep r]
  by_cases he : s.Escapes r
  · have mode : s.settledMode r = .locked := if_pos he
    have limit : s.settledLimit r = some (s.paramNat (rearLimit r).param) := if_pos (.inr he)
    rw [decide_eq_true he, mode, limit, Bool.or_true]
    rfl
  · have mode : s.settledMode r = s.modeStep r := if_neg he
    rw [decide_eq_false he, mode, Bool.or_false]
    by_cases hl : s.modeStep r = .locked
    · have limit : s.settledLimit r = some (s.paramNat (rearLimit r).param) := if_pos (.inl hl)
      rw [limit, hl]
      rfl
    · have unlocked : ¬(s.modeStep r = .locked ∨ s.Escapes r) := not_or.mpr ⟨hl, he⟩
      by_cases hb : (s.steering.rear.get r).mode = .locked
      · have limit : s.settledLimit r = none := (if_neg unlocked).trans (if_pos hb)
        simp only [limit, hl, hb, Bool.false_eq_true, if_false, if_true]
        rfl
      · have limit : s.settledLimit r = s.board.limits.get (rearLimit r) := (if_neg unlocked).trans (if_neg hb)
        simp only [limit, hl, hb, same, Bool.false_eq_true, if_false]
        rfl

/-! ## Both axles -/

/-- Settling one axle leaves what the other reads. -/
theorem State.settled_congr {s t : State} {r : Rear} (ht : t.tables = s.tables) (hs : t.slots = s.slots)
    (hk : t.track = s.track) (he : t.echoes = s.echoes) (hr : t.steering.rear.get r = s.steering.rear.get r) :
    t.modeStep r = s.modeStep r ∧ t.ratedAngle r = s.ratedAngle r ∧ t.rearBound r = s.rearBound r := by
  have disagrees : t.disagrees (.steer r) = s.disagrees (.steer r) := by
    rw [State.disagrees, State.disagrees, State.echoSpec_congr ht, he]
  have missing : t.inputsMissing r = s.inputsMissing r := by
    rw [State.inputsMissing, State.inputsMissing, State.present_congr hs]
  have reverse : t.notReverse = s.notReverse := by
    unfold State.notReverse
    rw [State.readInt_congr hs]
  have mode : t.modeStep r = s.modeStep r := by
    unfold State.modeStep
    rw [disagrees, missing, reverse, State.covered_congr ht hk, State.stationary_congr hs, hr]
  have bound : t.rearBound r = s.rearBound r := by
    rw [State.rearBound, State.rearBound, State.readSchedule_congr ht hs]
  have raw : t.rawDemand r = s.rawDemand r := by
    unfold State.rawDemand State.lookupPos State.pitch State.sectionHeading
    rw [hk, State.axleParams_congr ht, State.paramNat_congr ht, State.readAngle_congr hs]
  have demand : ∀ m, t.rearDemand r m = s.rearDemand r m := fun m => by
    unfold State.rearDemand
    rw [bound, raw, State.readSchedule_congr ht hs]
  exact ⟨mode, by rw [State.ratedAngle, State.ratedAngle, mode, demand, State.axleParams_congr ht, hr], bound⟩

/-- Both rear axles settled, before their set is offered (R69 to R80). -/
def State.settled (s : State) : State := { s with
  steering := { s.steering with
    rear := PerRear.ofFn fun r => { s.steering.rear.get r with mode := s.settledMode r }
    faults := { s.steering.faults with
      limitEscape := s.steering.faults.limitEscape || decide (s.Escapes .a3) || decide (s.Escapes .a4) } }
  board := { s.board with limits := { s.board.limits with
    steerA3 := s.settledLimit .a3, steerA4 := s.settledLimit .a4 } } }

theorem State.steerTrigger_eq (s : State) :
    s.steerTrigger = s.settled.offerSteer (s.settledCommand .a3) (s.settledCommand .a4) := by
  obtain ⟨mode, angle, bound⟩ := State.settled_congr (s := s) (t := (s.settleRear .a3).1) (r := .a4)
    (by rw [s.settleRear_eq]) (by rw [s.settleRear_eq]) (by rw [s.settleRear_eq]) (by rw [s.settleRear_eq])
    (by rw [s.settleRear_eq]; rfl)
  have escapes : (s.settleRear .a3).1.Escapes .a4 ↔ s.Escapes .a4 := by
    rw [State.Escapes, State.Escapes, mode, angle, bound]
  have settledMode : (s.settleRear .a3).1.settledMode .a4 = s.settledMode .a4 := by
    simp only [State.settledMode, escapes, mode]
  have command : (s.settleRear .a3).1.settledCommand .a4 = s.settledCommand .a4 := by
    simp only [State.settledCommand, escapes, mode, angle]
  have limit : (s.settleRear .a3).1.settledLimit .a4 = s.settledLimit .a4 := by
    have kept : (s.settleRear .a3).1.steering.rear.get .a4 = s.steering.rear.get .a4
        ∧ (s.settleRear .a3).1.board.limits.get .steerA4 = s.board.limits.get .steerA4
        ∧ (s.settleRear .a3).1.paramNat = s.paramNat := by
      rw [s.settleRear_eq]
      exact ⟨rfl, rfl, rfl⟩
    unfold State.settledLimit
    simp only [escapes, mode, rearLimit, kept]
  have first : (s.settleRear .a3).2 = s.settledCommand .a3 := by rw [s.settleRear_eq]
  have second := (s.settleRear .a3).1.settleRear_eq .a4
  simp only [settledMode, command, limit, escapes] at second
  simp only [State.steerTrigger]
  rw [first, second, s.settleRear_eq]
  rfl

end Sys2Proof.Machine
end

section
/-! The two triggers of the steering unit (R61 to R81). -/

namespace Sys2Proof.Machine

/-! ## What a STEER trigger leaves -/

/-- The frames of the set that a STEER trigger offers (R80). -/
def State.settledFrames (s : State) : List Frame := s.steerFrames (s.settledCommand .a3) (s.settledCommand .a4)

/-- A STEER trigger with its set admitted or refused (R69 to R81). -/
theorem State.steerTrigger_left (s : State) : s.steerTrigger =
    match s.ports.d.admission .priority s.settledFrames with
    | some y => { s.settled with
        ports := s.ports.set .d y
        steering := { s.settled.steering with rear := PerRear.ofFn fun r =>
          { mode := s.settledMode r, lastAngle := commandAngle (s.settledCommand r) } }
        echoes := s.steerEchoes (s.settledCommand .a3) (s.settledCommand .a4) }
    | none => s.settled.latchSteering fun f => { f with egressDrop := true } := by
  have told : s.settled.steerEchoes (s.settledCommand .a3) (s.settledCommand .a4)
      = s.steerEchoes (s.settledCommand .a3) (s.settledCommand .a4) :=
    State.steerEchoes_congr (s := s) (t := s.settled) rfl rfl _ _
  have frames : s.settled.steerFrames (s.settledCommand .a3) (s.settledCommand .a4) = s.settledFrames :=
    congrFun (State.emitFrames_eq_of_tables (s := s) (t := s.settled) rfl) _
  rw [State.steerTrigger_eq, State.offerSteer_eq, told, frames]
  show (match s.ports.d.admission .priority s.settledFrames with
    | some y => _
    | none => _) = _
  cases s.ports.d.admission .priority s.settledFrames <;> rfl

/-- What a STEER trigger leaves, its set admitted or refused (R69 to R81). -/
structure State.Steered (s t : State) : Prop where
  mode : ∀ r, (t.steering.rear.get r).mode = s.settledMode r
  limit : ∀ r, t.board.limits.get (rearLimit r) = s.settledLimit r
  limitEscape : t.steering.faults.limitEscape
    = (s.steering.faults.limitEscape || decide (s.Escapes .a3) || decide (s.Escapes .a4))
  offered : s.Offered .d .priority s.settledFrames t s.steering.faults.egressDrop t.steering.faults.egressDrop
  lastAngle : ∀ r, (t.steering.rear.get r).lastAngle =
    if (s.ports.d.admission .priority s.settledFrames).isSome then commandAngle (s.settledCommand r)
    else (s.steering.rear.get r).lastAngle
  echoes : t.echoes =
    if (s.ports.d.admission .priority s.settledFrames).isSome then
      s.steerEchoes (s.settledCommand .a3) (s.settledCommand .a4)
    else s.echoes
  frame : t = { s with
    ports := t.ports, echoes := t.echoes
    board := { s.board with limits := t.board.limits }
    steering := { s.steering with rear := t.steering.rear, faults := t.steering.faults } }

theorem State.steerTrigger_steered (s : State) : s.Steered s.steerTrigger := by
  rw [State.steerTrigger_left]
  cases ha : s.ports.d.admission .priority s.settledFrames with
  | none =>
    refine ⟨fun r => by cases r <;> rfl, fun r => by cases r <;> rfl, rfl, ?_, fun r => ?_, ?_, rfl⟩
    · have refused : (s.ports.get .d).admission .priority s.settledFrames = none := ha
      rw [State.Offered, refused]
      exact ⟨rfl, rfl⟩
    · rw [ha]
      cases r <;> rfl
    · rw [ha]
      rfl
  | some y =>
    refine ⟨fun r => by cases r <;> rfl, fun r => by cases r <;> rfl, rfl, ?_, fun r => ?_, ?_, rfl⟩
    · have admitted : (s.ports.get .d).admission .priority s.settledFrames = some y := ha
      rw [State.Offered, admitted]
      exact ⟨rfl, rfl⟩
    · rw [ha]
      cases r <;> rfl
    · rw [ha]
      rfl

/-- An ANGLE is within the steer limit, within the limit schedule, and within the rate of the last angle (R77 to R79). -/
theorem State.settledCommand_bounds {s : State} {r : Rear} {x : Int} (h : s.settledCommand r = .angle x) :
    (x.natAbs : Int) ≤ s.rearBound r
      ∧ (s.steering.rear.get r).lastAngle - (s.axleParams (rearAxle r)).rate ≤ x
      ∧ x ≤ (s.steering.rear.get r).lastAngle + (s.axleParams (rearAxle r)).rate := by
  unfold State.settledCommand at h
  split at h
  · cases h
  · rename_i stays
    obtain ⟨unlocked, within⟩ := not_or.mp stays
    obtain rfl : s.ratedAngle r = x := by injection h
    refine ⟨not_lt.mp fun he => within ⟨unlocked, he⟩, ?_⟩
    simp only [State.ratedAngle, rateStage, clampInt]
    omega

/-! ## The statement -/

theorem Track.fresh_eq (t : Track) (pitch : Nat) (x : Cm) (heading : Option Angle) : t.fresh pitch x heading =
    match heading with
    | some h => { marks := [{ position := x, heading := h }], lastOdo := some x, nextPos := x + BitVec.ofNat 32 pitch }
    | none => { t with marks := [], lastOdo := some x } := by
  cases heading <;> rfl

/-- Settles O37: the odometer's clauses are the cases of `Track.sample`, the steering clauses those of `State.settled` with
its set offered. -/
theorem steerCommands : Obligations.SteerCommands := by
  refine ⟨fun s x hx => ?_, fun s => State.odometerTrigger_of_none, State.covered_iff, fun s => ?_⟩
  · intro t heading d e n fresh broken
    have left : t = _ := State.odometerTrigger_eq hx
    have track : t.track = (s.sampled x).1 := congrArg State.track left
    have restarted : s.track.fresh s.pitch x s.pathHeading = fresh := Track.fresh_eq _ _ _ _
    have grid : 0 ≤ e → gridPoints s.pitch s.track.nextPos x = n := gridPoints_of_nonneg
    have broke : broken ↔ s.track.movesOn x ∧ s.track.breaks s.pitch x s.pathHeading :=
      and_congr Iff.rfl (and_congr Iff.rfl (and_congr_right fun he => by rw [grid he]; rfl))
    refine ⟨fun last hl hd => ?_, fun last hl hd h0 => ?_, fun on => ⟨fun hm => ?_, fun hm hd => ?_,
      fun h hm hf he hn hh => ?_, fun hb => ?_⟩, ?_, fun r => ?_, ?_⟩
    · rw [track, State.sampled, Track.sample_of_back hl hd]
    · rw [track, State.sampled, Track.sample_of_jitter hl hd h0]
    · rw [track, State.sampled, Track.sample_of_movesOn on, Track.forward_of_empty hm, restarted]
    · rw [track, State.sampled, Track.sample_of_movesOn on, Track.forward_of_short hm hd]
    · intro laid
      have known : s.pathHeading = some h := hh
      have length : laid.length = s.track.marks.length + n := by simp [laid]
      rw [track, State.sampled, Track.sample_of_movesOn on, known, Track.forward_of_laid hm he (by rwa [grid he]), grid he,
        appendMarks_eq _ _ _ _ _ hf, length]
      rfl
    · obtain ⟨-, breaks⟩ := broke.mp hb
      rw [track, State.sampled, Track.sample_of_movesOn on, Track.forward_of_breaks breaks, restarted]
    · have flag : t.steering.faults.trackBroken = (s.steering.faults.trackBroken || (s.sampled x).2) :=
        congrArg (fun u : State => u.steering.faults.trackBroken) left
      rw [flag, Bool.or_eq_true, State.sampled, Track.sample_broken_iff, broke]
    · have rear : t.steering.rear = PerRear.ofFn (State.judged { s with track := (s.sampled x).1 }) :=
        congrArg (fun u : State => u.steering.rear) left
      have tables : t.tables = s.tables := s.odometerTrigger_changes.get .tables
      rw [rear, PerRear.get_ofFn, State.covered_congr (s := { s with track := (s.sampled x).1 }) tables track]
      rfl
    · clear_value t
      subst left
      rfl
  · intro t distrusted forward bound last rate value escapes command set admitted
    have ahead : s.notReverse = true ↔ forward := s.notReverse_iff
    have left : s.Steered t := s.steerTrigger_steered
    clear_value t
    refine ⟨fun r => ⟨State.modeStep_of_distrusts, State.modeStep_of_locked, fun hd hl => ⟨fun hf => ?_, fun hf => ?_⟩⟩,
      fun r => ⟨rfl, rfl⟩, fun r odo m h j1 j2 ho hm hh h1 h2 a b ha hb => ?_, fun r x hx => ?_,
      fun r => ⟨left.mode r, left.limit r⟩, ?_, left.offered, left.lastAngle, left.echoes, left.frame⟩
    · rw [State.modeStep_of_unlocked hd hl, if_pos]
      simpa [ahead] using hf
    · rw [State.modeStep_of_unlocked hd hl, if_neg]
      simpa [ahead] using hf
    · obtain ⟨third, fourth⟩ := State.sectionHeading_eq hh h1
      rw [State.rawDemand_between ho hm rfl ha hb]
      cases r with
      | a3 => rw [third]; rfl
      | a4 => rw [fourth j2 (h2.resolve_left nofun)]; rfl
    · obtain ⟨within, lower, upper⟩ := State.settledCommand_bounds hx
      simp only [State.rearBound, steerLimit] at within
      exact ⟨by omega, by omega, by omega, by omega, lower, upper⟩
    · have either : (∃ r, escapes r) ↔ s.Escapes .a3 ∨ s.Escapes .a4 :=
        ⟨fun ⟨r, hr⟩ => by cases r; exacts [.inl hr, .inr hr], fun h => h.elim (⟨_, ·⟩) (⟨_, ·⟩)⟩
      rw [either, left.limitEscape]
      simp only [Bool.or_eq_true, decide_eq_true_eq, or_assoc]

end Sys2Proof.Machine
end

section
/-! What each command can do to the track memory, to the last angle commands and to the limiter's record. -/

namespace Sys2Proof.Machine

/-! ## Travel: the track memory with the angles -/

/-- The track memory, the rear records, the limiter's record and the active tables stand. -/
structure State.TravelKept (s t : State) : Prop where
  track : t.track = s.track
  rear : t.steering.rear = s.steering.rear
  limiter : t.steering.limiter = s.steering.limiter
  active : t.tables.active = s.tables.active

theorem State.TravelKept.refl (s : State) : s.TravelKept s := ⟨rfl, rfl, rfl, rfl⟩

theorem State.TravelKept.of_changes {bs : List Block} {s t : State} (h : State.ChangesOnly bs s t)
    (hk : Block.track ∉ bs := by decide) (hs : Block.steering ∉ bs := by decide) (ht : Block.tables ∉ bs := by decide) :
    s.TravelKept t :=
  ⟨h.get .track hk, congrArg Steering.rear (h.get .steering hs), congrArg Steering.limiter (h.get .steering hs),
    congrArg TableStore.active (h.get .tables ht)⟩

/-! ## Requests -/

/-- The rear records and the limiter's record stand. -/
structure State.AnglesKept (s t : State) : Prop where
  rear : t.steering.rear = s.steering.rear
  limiter : t.steering.limiter = s.steering.limiter

/-- A response keeps the angles where its effects do. -/
theorem State.respond_anglesKept (s : State) (code tag : Byte) (r : Reply) (effect : State → State)
    (h : ∀ u : State, u.AnglesKept (effect u)) : s.AnglesKept (s.respond code tag r effect) := by
  unfold State.respond
  split
  · rename_i u hu
    obtain ⟨rear, limiter⟩ := h u
    rw [State.offerSet_frame hu] at rear limiter ⊢
    exact ⟨rear, limiter⟩
  · exact ⟨rfl, rfl⟩

theorem State.answer_anglesKept (s : State) (code tag : Byte) (r : Reply) (effect : State → State)
    (h : ∀ u : State, u.AnglesKept (effect u)) : s.AnglesKept (s.answer code tag r effect) :=
  s.respond_anglesKept code tag r _ fun u => ⟨(h u).rear, (h u).limiter⟩

theorem State.deny_anglesKept (s : State) (code tag : Byte) (e : Status) : s.AnglesKept (s.deny code tag e) :=
  s.answer_anglesKept code tag (bareReply e) id fun _ => ⟨rfl, rfl⟩

/-- No request moves a last angle command or the limiter's record, but for an in-band reset (R189, R197). -/
theorem State.takeRequest_anglesKept (s : State) {i : Instr} (hi : requestData i ≠ none) (h : ¬s.resetsBy i) :
    s.AnglesKept (s.takeRequest i) := by
  cases i with
  | ident rest =>
    simp only [State.takeRequest, State.identRequest]
    split
    · exact s.deny_anglesKept _ _ _
    · split
      · exact s.answer_anglesKept _ _ _ _ fun _ => ⟨rfl, rfl⟩
      · exact s.deny_anglesKept _ _ _
  | status rest =>
    simp only [State.takeRequest, State.statusRequest]
    split
    · exact s.deny_anglesKept _ _ _
    · exact s.answer_anglesKept _ _ _ _ fun u => by split <;> exact ⟨rfl, rfl⟩
  | read rest =>
    simp only [State.takeRequest, State.readRequest]
    split
    · exact s.deny_anglesKept _ _ _
    · split
      · exact s.deny_anglesKept _ _ _
      · exact s.answer_anglesKept _ _ _ _ fun _ => ⟨rfl, rfl⟩
  | write rest =>
    simp only [State.takeRequest, State.writeRequest]
    split
    · exact s.deny_anglesKept _ _ _
    · split
      · exact s.deny_anglesKept _ _ _
      · split
        · exact s.deny_anglesKept _ _ _
        · exact s.answer_anglesKept _ _ _ _ fun _ => ⟨rfl, rfl⟩
  | swap rest =>
    simp only [State.takeRequest, State.swapRequest]
    split
    · exact s.deny_anglesKept _ _ _
    · split
      · exact s.deny_anglesKept _ _ _
      · split
        · exact s.deny_anglesKept _ _ _
        · split
          · exact s.answer_anglesKept _ _ _ _ fun _ => ⟨rfl, rfl⟩
          · exact s.answer_anglesKept _ _ _ _ fun _ => ⟨rfl, rfl⟩
  | commit rest =>
    simp only [State.takeRequest, State.commitRequest]
    split
    · exact s.deny_anglesKept _ _ _
    · exact s.answer_anglesKept _ _ _ _ fun u => by split <;> exact ⟨rfl, rfl⟩
  | hold rest => exact s.answer_anglesKept _ _ _ _ fun _ => ⟨rfl, rfl⟩
  | release rest => exact s.answer_anglesKept _ _ _ _ fun _ => ⟨rfl, rfl⟩
  | discard rest =>
    simp only [State.takeRequest, State.discardRequest]
    split
    · exact s.deny_anglesKept _ _ _
    · exact s.answer_anglesKept _ _ _ _ fun _ => ⟨rfl, rfl⟩
  | events rest =>
    simp only [State.takeRequest, State.eventsRequest]
    split
    · exact s.deny_anglesKept _ _ _
    · exact s.answer_anglesKept _ _ _ _ fun u => by split <;> exact ⟨rfl, rfl⟩
  | resetArm rest => exact s.respond_anglesKept _ _ _ _ fun _ => ⟨rfl, rfl⟩
  | resetGo rest =>
    simp only [State.takeRequest, State.resetGoRequest]
    split
    · exact s.respond_anglesKept _ _ _ _ fun _ => ⟨rfl, rfl⟩
    · rename_i armed
      split
      · exact s.respond_anglesKept _ _ _ _ fun _ => ⟨rfl, rfl⟩
      · rename_i still
        refine absurd ⟨⟨rest, rfl⟩, armed, ?_⟩ h
        simpa [← Bool.not_eq_true, imp_iff_not_or] using still
  | badRequest data => exact s.deny_anglesKept _ _ _
  | _ => exact absurd rfl hi

/-- The track memory and the steering unit at their reset values, the active tables as they were (R184, R197). -/
structure State.TravelReset (s t : State) : Prop where
  track : t.track = .reset
  steering : t.steering = .reset
  active : t.tables.active = s.tables.active

theorem State.takeRequest_travel (s : State) {i : Instr} (hi : requestData i ≠ none) :
    s.TravelKept (s.takeRequest i) ∨ s.TravelReset (s.takeRequest i) := by
  by_cases hr : s.resetsBy i
  · obtain ⟨⟨rest, rfl⟩, harm, hstill⟩ := hr
    show s.TravelKept (s.resetGoRequest rest) ∨ s.TravelReset (s.resetGoRequest rest)
    rw [s.resetGoRequest_of_armed rest harm hstill]
    simp only [State.resetAnswered]
    split
    · rename_i u hu
      rw [State.offerSet_frame hu]
      exact .inr ⟨rfl, rfl, TableStore.cancel_active _⟩
    · exact .inl ⟨rfl, rfl, rfl, rfl⟩
  · have responds := s.responds_takeRequest hi hr
    obtain ⟨rear, limiter⟩ := s.takeRequest_anglesKept hi hr
    have track : (s.takeRequest i).track = s.track := by
      obtain ⟨u, _, _, _, hu, effect⟩ | refused := responds.cases
      · rw [State.offerSet_frame hu] at effect
        exact effect.blocks.get .track
      · rw [refused]
        rfl
    exact .inl ⟨track, rear, limiter, responds.active.1⟩

/-! ## Arrivals, watches and the other commands -/

theorem State.forward_changes (s : State) (p : Port) (f : Frame) :
    State.ChangesOnly [.ports, .path] s (s.forward p f) := by
  unfold State.forward
  split
  · rename_i h
    exact (State.offerSet_changes h).mono (by decide)
  · exact (s.latchPath_changes _).mono (by decide)

theorem State.unmatched_changes (s : State) (p : Port) (f : Frame) :
    State.ChangesOnly [.ports, .path] s (s.unmatched p f) := by
  cases p with
  | u => exact .refl _ _
  | d => exact .ite (s.forward_changes _ _) (.refl _ _)

/-- An arrival is a request, or accepted, or it leaves all but the ports and the frame path (R1, R5 to R9). -/
theorem State.frameArrival_outcomes (s : State) (p : Port) (f : Frame) :
    s.frameArrival p f = s.takeRequest (requestOfData f.data) ∨ (∃ m, s.Accepts p f m)
      ∨ State.ChangesOnly [.ports, .path] s (s.frameArrival p f) := by
  cases hl : (s.ports.get p).link with
  | busOff =>
    have discarded : s.frameArrival p f = s := by simp only [State.frameArrival, hl]
    exact .inr (.inr (discarded.symm ▸ .refl _ _))
  | active =>
    cases hm : s.isManagement p f.id with
    | true => exact .inl (by simp [State.frameArrival, hl, hm])
    | false =>
      have arrival := State.frameArrival_of_active hl hm
      cases hr : s.inRun with
      | false =>
        have discarded : s.frameArrival p f = s := by simp [arrival, State.classify, hr]
        exact .inr (.inr (discarded.symm ▸ .refl _ _))
      | true =>
        cases hp : (s.matchEntry p f.id).bind s.matchedAt with
        | none =>
          have unmatched : s.frameArrival p f = s.unmatched p f := by simp [arrival, State.classify, hr, hp]
          exact .inr (.inr (unmatched ▸ s.unmatched_changes p f))
        | some m =>
          obtain ⟨i, hi, he⟩ := Option.bind_eq_some_iff.mp hp
          obtain rfl := State.place_of_matchedAt he
          have matched : s.Matches p f m := ⟨hr, hl, hm, hi, he⟩
          obtain ha | ⟨g, hg⟩ := matched.accepted_or
          · exact .inr (.inl ⟨m, ha⟩)
          · exact .inr (.inr (hg ▸ (s.latchPath_changes g).mono (by decide)))

theorem State.watchExpiry_travel (s : State) (i : Fin 96) : s.TravelKept (s.watchExpiry i) := by
  by_cases h : s.path.entries[i].watch = none
  · rw [State.watchExpiry_of_idle h]
    exact .refl s
  · obtain ⟨track, rear, limiter, active⟩ := State.TravelKept.of_changes (State.watchExpiry_changes h)
    rw [State.unwatched_eq] at track rear limiter active
    exact ⟨track, rear, limiter, active⟩

/-- What a command can do to the track memory and the angles: nothing, unless it is a reset, an accepted arrival or the
expiry of the cycle timer. -/
theorem exec_travel {c : Instr} {s t : State} (h : exec c s = .next t) :
    (∃ straps, t = s.hardReset straps) ∨ s.TravelReset t ∨ (∃ p f m, s.Accepts p f m ∧ t = s.frameArrival p f)
      ∨ t = s.cycleExpiry ∨ s.TravelKept t := by
  have request : ∀ i, requestData i ≠ none → t = s.takeRequest i → s.TravelReset t ∨ s.TravelKept t :=
    fun i hi e => e ▸ (s.takeRequest_travel hi).symm
  by_cases hi : requestData c = none
  · cases c with
    | powerOn straps => cases h; exact .inl ⟨straps, rfl⟩
    | resetLine straps => cases h; exact .inl ⟨straps, rfl⟩
    | frameArrival p f =>
      obtain rfl : s.frameArrival p f = t := Host.Outcome.next.inj h
      obtain hr | ⟨m, ha⟩ | hk := s.frameArrival_outcomes p f
      · obtain reset | kept := request _ (requestData_requestOfData f.data) hr
        · exact .inr (.inl reset)
        · exact .inr (.inr (.inr (.inr kept)))
      · exact .inr (.inr (.inl ⟨p, f, m, ha, rfl⟩))
      · exact .inr (.inr (.inr (.inr (.of_changes hk))))
    | cycleTimerExpiry => cases h; exact .inr (.inr (.inr (.inl rfl)))
    | busOff p =>
      cases h
      refine .inr (.inr (.inr (.inr ?_)))
      unfold State.busOff
      split <;> exact ⟨rfl, rfl, rfl, rfl⟩
    | recovery p =>
      cases h
      refine .inr (.inr (.inr (.inr ?_)))
      unfold State.recovery
      split <;> exact ⟨rfl, rfl, rfl, rfl⟩
    | transmitComplete p => cases h; exact .inr (.inr (.inr (.inr (.of_changes (s.setPort_changes p _)))))
    | watchExpiry i => cases h; exact .inr (.inr (.inr (.inr (s.watchExpiry_travel i))))
    | echoTimerExpiry k => cases h; exact .inr (.inr (.inr (.inr (.of_changes (s.echoExpiry_changes k)))))
    | activeSinceExpiry a => cases h; exact .inr (.inr (.inr (.inr (.of_changes (s.activeSinceExpiry_changes a)))))
    | kneelArmTimerExpiry => cases h; exact .inr (.inr (.inr (.inr (.of_changes s.kneelArmExpiry_changes))))
    | kneelDeadlineExpiry => cases h; exact .inr (.inr (.inr (.inr (.of_changes s.kneelDeadlineExpiry_changes))))
    | doorArmTimerExpiry d => cases h; exact .inr (.inr (.inr (.inr (.of_changes (s.doorArmExpiry_changes d)))))
    | lockProofExpiry d => cases h; exact .inr (.inr (.inr (.inr (.of_changes (s.lockProofExpiry_changes d)))))
    | releaseHoldExpiry d => cases h; exact .inr (.inr (.inr (.inr (.of_changes (s.releaseHoldExpiry_changes d)))))
    | resetArmTimerExpiry => cases h; exact .inr (.inr (.inr (.inr (.of_changes s.disarm_changes))))
    | _ => cases hi
  · rw [exec_request hi] at h
    obtain reset | kept := request c hi (Host.Outcome.next.inj h).symm
    · exact .inr (.inl reset)
    · exact .inr (.inr (.inr (.inr kept)))

/-! ## Inductions over a mark and over what an arrival hands on -/

theorem State.cycleMark_induction {P : State → Prop} {s : State} (draw : ∀ t n, P t → P { t with orderCount := n })
    (act : ∀ a t, P t → P (State.markAction t a)) (store : P s.storeMark.1) (b : Bool) : P (s.cycleMark b) := by
  obtain ⟨run, still⟩ := s.cycleMark_takes b
  cases hr : s.storeMark.1.inRun with
  | true => exact (run hr).induction draw (fun a _ => act a) store
  | false =>
    rw [still hr]
    exact store

theorem State.handOn_induction {P : State → Prop} {u : State} (draw : ∀ t n, P t → P { t with orderCount := n })
    (keep : ∀ d t, P t → P (State.deliver t d)) (hu : P u) (b : Bool) (ds : List Delivery) : P (u.handOn b ds) := by
  obtain ⟨plain, unapplied, applied⟩ := u.handOn_takes ds
  cases b with
  | false => exact plain.induction draw (fun d _ => keep d) hu
  | true =>
    cases hf : u.wouldApplyFit with
    | false => exact (unapplied hf).induction draw (fun d _ => keep d) hu
    | true =>
      obtain ⟨v, hv, ht⟩ := applied hf
      rw [ht]
      exact keep .sync v (hv.induction draw (fun d _ => keep d) hu)

theorem State.cycleExpiry_induction {P : State → Prop} {s : State} (timer : ∀ t n, P t → P (State.setCycleTimer t n))
    (mark : P (s.cycleMark false)) (hs : P s) : P s.cycleExpiry := by
  unfold State.cycleExpiry
  split
  · exact hs
  · split
    · exact timer _ _ hs
    · exact timer _ _ mark

end Sys2Proof.Machine
end

section
/-! Every step keeps the commanded angles within the steer limit (R68, R79, R83, R84). -/

namespace Sys2Proof.Machine

namespace State.AnglesSound

variable {s t : State}

theorem congr (h : s.AnglesSound) (hr : ∀ r, (t.steering.rear.get r).lastAngle = (s.steering.rear.get r).lastAngle)
    (hl : t.steering.limiter = s.steering.limiter) : t.AnglesSound :=
  ⟨fun r => hr r ▸ h.rear r, fun x hx => h.front x (hl ▸ hx)⟩

theorem of_steering (h : s.AnglesSound) (hs : t.steering = s.steering) : t.AnglesSound :=
  h.congr (fun r => by rw [hs]) (by rw [hs])

/-! ## Triggers -/

theorem odometerTrigger (h : s.AnglesSound) : s.odometerTrigger.AnglesSound := by
  refine h.congr (fun r => ?_) s.odometerTrigger_limiter
  cases hx : s.readSlot slotOdometer with
  | none => rw [State.odometerTrigger_of_none hx]
  | some x =>
    rw [State.odometerTrigger_eq hx]
    cases r <;> rfl

/-- A STEER trigger commands LOCK or an angle within the limit (R79, R81). -/
theorem steerTrigger (h : s.AnglesSound) : s.steerTrigger.AnglesSound := by
  have left := s.steerTrigger_steered
  have commanded : ∀ r, ((commandAngle (s.settledCommand r)).natAbs : Int) ≤ steerLimit := fun r => by
    cases hc : s.settledCommand r with
    | lock => decide
    | angle x =>
      obtain ⟨within, -, -⟩ := State.settledCommand_bounds hc
      exact within.trans (min_le_right _ _)
  refine ⟨fun r => ?_, fun x hx => h.front x (s.steerTrigger_limiter ▸ hx)⟩
  rw [left.lastAngle r]
  split
  · exact commanded r
  · exact h.rear r

/-! ## Marks -/

/-- The LOCK set of a mark without JOINT1 makes both last angle commands 0 where it is admitted (R81, R82). -/
theorem steerMark (h : s.AnglesSound) : s.steerMark.AnglesSound := by
  by_cases hp : s.present (slotJoint .j1) = true
  · rwa [State.steerMark, if_pos hp]
  · rw [State.steerMark_eq (by simpa using hp)]
    split
    · exact ⟨fun r => by simp only [PerRear.get_const]; decide, h.front⟩
    · exact h.congr (fun r => by cases r <;> rfl) rfl

theorem markAction (h : s.AnglesSound) (a : MarkAction) : (s.markAction a).AnglesSound := by
  cases a with
  | chassis => exact h.of_steering (s.offerChassis_changes.get .steering)
  | steering => exact h.steerMark
  | joints => exact h.of_steering (s.jointMark_changes.get .steering)
  | brakes => exact h.of_steering (s.brakeMark_changes.get .steering)
  | kneel b => exact h.of_steering ((s.kneelMark_changes b).get .steering)
  | followSync => exact h.of_steering (s.followSync_changes.get .steering)

/-- An application leaves each last angle command or makes it 0, and keeps the limiter's record or clears it (R68, R83). -/
theorem storeMark (h : s.AnglesSound) : s.storeMark.1.AnglesSound := by
  by_cases hv : s.markVerdict = .apply
  · have done := State.storeMark_finished hv
    refine ⟨fun r => ?_, fun x hx => ?_⟩
    · rw [done.rear, s.preFit_eq]
      simp only [PerRear.get_ofFn]
      split
      · decide
      · exact h.rear r
    · rw [done.frame] at hx
      cases hf : s.tables.waiting.fit with
      | true =>
        have cleared : s.postFit.steering.limiter = none := by
          rw [State.postFit, hf]
          exact congrArg Steering.limiter s.preFit.fitApplied_steering
        rw [cleared] at hx
        cases hx
      | false =>
        have kept : s.postFit.steering.limiter = s.steering.limiter := by
          rw [State.postFit, hf]
          show s.preFit.steering.limiter = _
          rw [s.preFit_eq]
        exact h.front x (kept ▸ hx)
  · exact h.of_steering (by rw [(State.storeMark_of_not_apply hv).1])

theorem cycleMark (h : s.AnglesSound) (b : Bool) : (s.cycleMark b).AnglesSound :=
  State.cycleMark_induction (fun _ _ h => h.of_steering rfl) (fun a _ h => h.markAction a) h.storeMark b

/-! ## Arrivals -/

theorem deliver (h : s.AnglesSound) (d : Delivery) : (s.deliver d).AnglesSound := by
  by_cases hm : d = .sync
  · rw [hm]
    exact h.cycleMark _
  by_cases ho : d = .odometer
  · rw [ho]
    exact h.odometerTrigger
  by_cases hs : d = .steer
  · rw [hs]
    exact h.steerTrigger
  exact h.of_steering (s.deliver_steering hm ho hs)

/-- The one rewrite with a result is CLAMP_FRONT, and its result is the limiter's (R15, R84). -/
theorem rewritten (h : s.AnglesSound) (rw' : Rewrite) (data : List Byte) {x : Int}
    (hx : (s.rewritten rw' data).2 = some x) : (x.natAbs : Int) ≤ steerLimit := by
  cases rw' with
  | noRewrite => cases hx
  | clampFront start width =>
    obtain ⟨lower, upper⟩ := State.limitFront_bounds h (signedOf width (fieldNat data start width))
    cases hx
    simp only [steerLimit]
    omega
  | gateTraction start width => cases hx

/-- What an accepted arrival stores before it hands anything on (R85). -/
theorem arrived {u : State} (h : s.AnglesSound) {p : Port} {f : Frame} {m : Matched} (hu : s.Arrived p f m u) :
    u.AnglesSound := by
  refine ⟨fun r => ?_, fun x hx => ?_⟩
  · rw [hu.frame]
    exact h.rear r
  · by_cases fw : m.entry.forward = true ∧ s.neverForwarded f.id = false
    · rw [(hu.forwards fw.1 fw.2).2] at hx
      split at hx
      · obtain result | ⟨-, kept⟩ := Option.or_eq_some_iff.mp hx
        · have seen : (s.seeing m f).AnglesSound := h.of_steering rfl
          exact seen.rewritten _ _ result
        · exact h.front x kept
      · exact h.front x hx
    · have kept := (hu.kept (by simpa [← Bool.not_eq_true, imp_iff_not_or] using fw)).2.1
      rw [kept] at hx
      exact h.front x hx

theorem frameArrival (h : s.AnglesSound) {p : Port} {f : Frame} {m : Matched} (ha : s.Accepts p f m) :
    (s.frameArrival p f).AnglesSound := by
  obtain ⟨u, hu, ht⟩ := ha.arrived
  rw [ht]
  exact State.handOn_induction (fun _ _ h => h.of_steering rfl) (fun d _ h => h.deliver d) (h.arrived hu) _ _

end State.AnglesSound

/-! ## Every command -/

theorem exec_anglesSound {c : Instr} {s t : State} (hs : s.AnglesSound) (h : exec c s = .next t) : t.AnglesSound := by
  obtain ⟨straps, rfl⟩ | reset | ⟨p, f, m, ha, rfl⟩ | rfl | kept := exec_travel h
  · exact State.reset_anglesSound.of_steering rfl
  · exact State.reset_anglesSound.of_steering reset.steering
  · exact hs.frameArrival ha
  · exact State.cycleExpiry_induction (fun _ _ h => h.of_steering rfl) (hs.cycleMark false) hs
  · exact hs.congr (fun r => by rw [kept.rear]) kept.limiter

/-- Settles O38. -/
theorem anglesStaySound : Obligations.AnglesStaySound := by
  intro s t hs h
  obtain rfl | ⟨c, n, rfl⟩ | ⟨c, rest, -, he⟩ := step_cases h
  · exact hs.of_steering rfl
  · exact hs.of_steering rfl
  · exact exec_anglesSound (s := { s with pending := rest }) (hs.of_steering rfl) he

end Sys2Proof.Machine
end

section
/-! Every step keeps the track memory sound (R60, R63, R65). -/

namespace Sys2Proof.Machine

/-! ## Marks laid -/

namespace Track

variable {t : Track} {pitch : Nat}

theorem sound_of_empty (h : t.marks = []) : t.Sound pitch where
  fits := by rw [h]; exact Nat.zero_le _
  spaced i a b ha := by rw [h] at ha; cases ha
  due m hm := by rw [h] at hm; cases hm

theorem fresh_sound (t : Track) (pitch : Nat) (x : Cm) (heading : Option Angle) : (t.fresh pitch x heading).Sound pitch := by
  cases heading with
  | none => exact sound_of_empty rfl
  | some h =>
    refine ⟨by show 1 ≤ 256; decide, fun i a b ha hb => ?_, fun m hm => ?_⟩
    · cases hb
    · cases hm
      exact ⟨rfl, nofun⟩

/-- Marks a pitch apart stay so with one more laid a pitch beyond the newest. -/
theorem spaced_concat {ms : List TrackMark} {m : TrackMark}
    (spaced : ∀ i a b, ms[i]? = some a → ms[i + 1]? = some b → b.position = a.position + BitVec.ofNat 32 pitch)
    (next : ∀ l, ms.getLast? = some l → m.position = l.position + BitVec.ofNat 32 pitch) (i : Nat) (a b : TrackMark)
    (ha : (ms ++ [m])[i]? = some a) (hb : (ms ++ [m])[i + 1]? = some b) :
    b.position = a.position + BitVec.ofNat 32 pitch := by
  obtain inner | edge | outer := lt_trichotomy (i + 1) ms.length
  · rw [List.getElem?_append_left (by omega)] at ha
    rw [List.getElem?_append_left inner] at hb
    exact spaced i a b ha hb
  · rw [List.getElem?_append_left (by omega)] at ha
    rw [edge, List.getElem?_concat_length] at hb
    have newest : ms.getLast? = some a := by
      rw [List.getLast?_eq_getElem?, ← edge, Nat.add_sub_cancel]
      exact ha
    cases hb
    exact next a newest
  · rw [List.getElem?_eq_none (by simp; omega)] at hb
    cases hb

/-- A mark laid where the next one is due (R60, R63). -/
theorem Sound.appendMark (h : t.Sound pitch) (hodo : t.lastOdo ≠ none) (heading : Angle) :
    Track.Sound { t with marks := appendMark t.marks { position := t.nextPos, heading }
                         nextPos := t.nextPos + BitVec.ofNat 32 pitch } pitch where
  fits := length_appendMark _ _ h.fits
  spaced := by
    refine spaced_concat (fun i a b ha hb => ?_) fun l hl => ?_
    · split at ha
      · rw [if_pos ‹_›, List.getElem?_drop] at hb
        rw [List.getElem?_drop] at ha
        exact h.spaced (1 + i) a b ha hb
      · rw [if_neg ‹_›] at hb
        exact h.spaced i a b ha hb
    · refine (h.due l ?_).1
      split at hl
      · rwa [List.getLast?_drop, if_neg (by omega)] at hl
      · exact hl
  due m hm := by
    rw [show (Machine.appendMark t.marks _).getLast? = _ from List.getLast?_concat] at hm
    cases hm
    exact ⟨rfl, hodo⟩

/-- Marks laid one after another (R63). -/
theorem Sound.appendMarks (n : Nat) (h : t.Sound pitch) (hodo : t.lastOdo ≠ none) (heading : Angle) :
    Track.Sound { t with marks := appendMarks pitch heading n t.nextPos t.marks
                         nextPos := t.nextPos + BitVec.ofNat 32 (n * pitch) } pitch := by
  induction n generalizing t with
  | zero =>
    have still : t.nextPos + BitVec.ofNat 32 (0 * pitch) = t.nextPos := by simp
    rw [still]
    exact h
  | succ n ih =>
    have laid := ih (h.appendMark hodo heading) hodo
    have beyond : t.nextPos + BitVec.ofNat 32 pitch + BitVec.ofNat 32 (n * pitch)
        = t.nextPos + BitVec.ofNat 32 ((n + 1) * pitch) := by
      rw [BitVec.add_assoc, ← BitVec.ofNat_add, Nat.succ_mul, Nat.add_comm pitch]
    rw [← beyond]
    exact laid

/-- An odometer value keeps the track memory sound (R60 to R64). -/
theorem Sound.sample (h : t.Sound pitch) (x : Cm) (heading : Option Angle) : (t.sample pitch x heading).1.Sound pitch := by
  have reached : Track.Sound { t with lastOdo := some x } pitch := ⟨h.fits, h.spaced, fun m hm => ⟨(h.due m hm).1, nofun⟩⟩
  obtain he | he | ⟨-, ⟨-, he⟩ | ⟨-, -, he⟩ | ⟨_, -, -, -, -, he⟩ | ⟨-, he⟩⟩ := t.sample_cases pitch x heading
  all_goals rw [he]
  · exact sound_of_empty rfl
  · exact h
  · exact t.fresh_sound _ _ _
  · exact reached
  · exact reached.appendMarks _ nofun _
  · exact t.fresh_sound _ _ _

end Track

/-! ## The state's track -/

namespace State.trackSound

variable {s t : State}

theorem congr (h : s.trackSound) (hk : t.track = s.track) (ha : t.tables.active = s.tables.active) : t.trackSound := by
  have pitch : t.pitch = s.pitch := by
    rw [State.pitch, State.pitch, State.paramNat, State.paramNat, State.param, State.param, ha]
  rw [State.trackSound, hk, ha, pitch]
  exact h

theorem of_empty (h : s.track.marks = []) : s.trackSound := ⟨Track.sound_of_empty h, fun _ => h⟩

/-- An ODOMETER trigger while a CONSTANTS table is active (R61 to R65). -/
theorem odometerTrigger (h : s.trackSound) (hc : s.tables.active.constants ≠ none) : s.odometerTrigger.trackSound := by
  cases hx : s.readSlot slotOdometer with
  | none => rwa [State.odometerTrigger_of_none hx]
  | some x =>
    rw [State.odometerTrigger_eq hx]
    exact ⟨h.1.sample x _, fun hn => absurd hn hc⟩

/-- An application that changes the pitch empties the track (R65). -/
theorem storeMark (h : s.trackSound) : s.storeMark.1.trackSound := by
  by_cases hv : s.markVerdict = .apply
  · have done := State.storeMark_finished hv
    obtain ⟨moved, unmoved⟩ := done.rearModes
    by_cases hm : s.tables.active.trackChanged s.storeMark.1.tables.active
    · exact of_empty (by rw [(moved hm).1])
    · obtain ⟨track, -⟩ := unmoved hm
      cases hc : s.tables.active.constants with
      | none => exact of_empty (by rw [track, h.2 hc])
      | some old =>
        have active : s.storeMark.1.tables.active.constants
            = if s.tables.waiting.constants then some s.tables.staged.constants else some old := by
          rw [done.tables, ← hc]
          rfl
        obtain ⟨new, hn⟩ : ∃ new, s.storeMark.1.tables.active.constants = some new := by
          rw [active]
          split <;> exact ⟨_, rfl⟩
        have same : old[Param.pitch.index] = new[Param.pitch.index] := by
          by_contra hd
          exact hm (.inl ⟨old, new, hc, hn, hd⟩)
        have pitch : s.storeMark.1.pitch = s.pitch := by
          simp only [State.pitch, State.paramNat, State.param, hc, hn, Option.getD_some, same]
        refine ⟨?_, fun hnone => ?_⟩
        · rw [track, pitch]
          exact h.1
        · rw [hn] at hnone
          cases hnone
  · refine h.congr (by rw [(State.storeMark_of_not_apply hv).1]) ?_
    unfold State.storeMark
    split
    · rfl
    · rfl
    · exact absurd ‹_› hv

theorem markAction (h : s.trackSound) (a : MarkAction) : (s.markAction a).trackSound :=
  have kept := s.markAction_changes a
  h.congr (kept.get .track) (congrArg TableStore.active (kept.get .tables))

theorem cycleMark (h : s.trackSound) (b : Bool) : (s.cycleMark b).trackSound :=
  State.cycleMark_induction (fun _ _ h => h.congr rfl rfl) (fun a _ h => h.markAction a) h.storeMark b

end State.trackSound

/-! ## Arrivals -/

/-- The track memory takes the ODOMETER trigger alone (R61). -/
theorem State.deliver_track (s : State) {d : Delivery} (h : d ≠ .sync) (ho : d ≠ .odometer) :
    (s.deliver d).track = s.track := by
  cases d with
  | odometer => exact absurd rfl ho
  | steer => exact s.steerTrigger_changes.get .track
  | joints => exact s.jointTrigger_changes.get .track
  | brake => exact s.brakeTrigger_changes.get .track
  | level a => exact (s.levelTrigger_changes a).get .track
  | kneelLevel => exact s.kneelLevelTrigger_changes.get .track
  | door d => exact (s.doorTrigger_changes d).get .track
  | kneel => exact s.kneelTrigger_changes.get .track
  | traction => exact s.tractionNotice_changes.get .track
  | levelRequest => exact s.levelRequestNotice_changes.get .track
  | doorRequest d => exact (s.doorRequest_changes d).get .track
  | brakeEcho => exact s.recomputeHalt_changes.get .track
  | echo k => exact (s.echoArrival_changes k).get .track
  | loss l => exact (s.takeLoss_changes false l).get .track
  | sync => exact absurd rfl h

/-- The track in RUN: sound, with a CONSTANTS table active (R183). -/
structure State.TrackRunning (s : State) : Prop where
  sound : s.trackSound
  constants : s.tables.active.constants ≠ none

namespace State.TrackRunning

variable {s : State}

/-- A mark leaves no table ABSENT that was active (R180). -/
theorem cycleMark (h : s.TrackRunning) (b : Bool) : (s.cycleMark b).TrackRunning := by
  refine ⟨h.sound.cycleMark b, ?_⟩
  rw [State.cycleMark_tables]
  obtain kept | ⟨-, prospect, -⟩ := s.tables.mark_active s.stationary
  · rw [kept]
    exact h.constants
  · rw [prospect]
    simp only [TableStore.prospect, copyTables]
    split
    · nofun
    · exact h.constants

theorem deliver (h : s.TrackRunning) (d : Delivery) : (s.deliver d).TrackRunning := by
  by_cases hs : d = .sync
  · rw [hs]
    exact h.cycleMark _
  have tables : (s.deliver d).tables = s.tables := (s.deliver_changes hs).get .tables
  refine ⟨?_, by rw [tables]; exact h.constants⟩
  by_cases ho : d = .odometer
  · rw [ho]
    exact h.sound.odometerTrigger h.constants
  · exact h.sound.congr (s.deliver_track hs ho) (by rw [tables])

theorem frameArrival (h : s.TrackRunning) {p : Port} {f : Frame} {m : Matched} (ha : s.Accepts p f m) :
    (s.frameArrival p f).TrackRunning := by
  obtain ⟨u, hu, ht⟩ := ha.arrived
  have track : u.track = s.track := hu.changes.get .track
  have arrived : u.TrackRunning :=
    ⟨h.sound.congr track (by rw [hu.tables]), by rw [hu.tables]; exact h.constants⟩
  rw [ht]
  exact State.handOn_induction (fun _ _ h => ⟨h.sound.congr rfl rfl, h.constants⟩) (fun d _ h => h.deliver d) arrived _ _

end State.TrackRunning

/-! ## Every command -/

/-- In RUN a CONSTANTS table is active (R183). -/
theorem TableStore.Sound.constants_of_run {s : State} (h : s.tables.Sound) (hr : s.inRun = true) :
    s.tables.active.constants ≠ none := by
  have full := h.run.mp ((State.inRun_eq s).mp hr)
  simp only [ActiveTables.full, Bool.and_eq_true, Option.isSome_iff_ne_none] at full
  exact full.2

theorem exec_trackSound {c : Instr} {s t : State} (hs : s.trackSound) (ht : s.tables.Sound) (h : exec c s = .next t) :
    t.trackSound := by
  obtain ⟨straps, rfl⟩ | reset | ⟨p, f, m, ha, rfl⟩ | rfl | kept := exec_travel h
  · exact State.reset_trackSound.congr rfl rfl
  · exact .of_empty (by rw [reset.track]; rfl)
  · have running : s.TrackRunning := ⟨hs, ht.constants_of_run ha.matched.run⟩
    exact (running.frameArrival ha).sound
  · exact State.cycleExpiry_induction (fun _ _ h => h.congr rfl rfl) (hs.cycleMark false) hs
  · exact hs.congr kept.track kept.active

/-- Settles O39. -/
theorem trackStaysSound : Obligations.TrackStaysSound := by
  intro s t hs ht h
  obtain rfl | ⟨c, n, rfl⟩ | ⟨c, rest, -, he⟩ := step_cases h
  · exact hs.congr rfl rfl
  · exact hs.congr rfl rfl
  · exact exec_trackSound (s := { s with pending := rest }) (hs.congr rfl rfl) ht he

end Sys2Proof.Machine
end

section
/-! The joint unit at a STEER trigger (R88 to R94). -/

namespace Sys2Proof.Machine

/-! ## Envelopes and damping levels -/

/-- A joint enters BREACH as soon as its fold exceeds the envelope (R89). -/
theorem settleEnvelope_inside_eq_breach {m : Nat} {e h : Int} :
    settleEnvelope .inside m e h = .breach ↔ e < (m : Int) := by
  by_cases he : e < (m : Int) <;> simp [settleEnvelope, he]

/-- A joint leaves BREACH only when its fold has come back by the hysteresis (R89). -/
theorem settleEnvelope_breach_eq_inside {m : Nat} {e h : Int} :
    settleEnvelope .breach m e h = .inside ↔ (m : Int) ≤ e - h := by
  by_cases he : (m : Int) ≤ e - h <;> simp [settleEnvelope, he]

theorem State.jointEnvelope_of_some {s : State} {j : Joint} {a : Angle} (h : s.readAngle (slotJoint j) = some a) :
    s.jointEnvelope j = settleEnvelope (s.joints.records.get j).envelope a.toInt.natAbs
      (s.readSchedule (envelopeSchedule j)) (s.param .jointHyst) := by
  simp only [State.jointEnvelope, h]

theorem State.jointEnvelope_of_none {s : State} {j : Joint} (h : s.readAngle (slotJoint j) = none) :
    s.jointEnvelope j = (s.joints.records.get j).envelope := by
  simp only [State.jointEnvelope, h]

/-- A slot counts as VALID exactly where an angle is read from it. -/
theorem State.present_eq_false_iff_readAngle (s : State) (i : SlotId) : s.present i = false ↔ s.readAngle i = none := by
  simp [State.present, State.readAngle]

/-- FULL without the joint's slot and in BREACH, else by the speed (R91). -/
theorem State.jointDamping_eq (s : State) (j : Joint) (e : Envelope) : s.jointDamping j e =
    if s.readAngle (slotJoint j) = none ∨ e = .breach then .full
    else if s.speedBelow (s.param .dampFirmSpeed) then .soft else .firm := by
  have missing := s.present_eq_false_iff_readAngle (slotJoint j)
  by_cases h : s.present (slotJoint j) = false
  · simp [State.jointDamping, h, missing.mp h]
  · simp [State.jointDamping, h, ← missing]

/-! ## One joint -/

/-- The record of a joint after a STEER trigger (R89 to R91). -/
def State.settledJoint (s : State) (j : Joint) : JointRecord :=
  { envelope := s.jointEnvelope j, damping := s.jointDamping j (s.jointEnvelope j) }

/-- A joint enters BREACH at this STEER trigger (R92). -/
abbrev State.Breaches (s : State) (j : Joint) : Prop :=
  (s.joints.records.get j).envelope = .inside ∧ s.jointEnvelope j = .breach

/-- The speed-limit kind of a joint after a STEER trigger (R92). -/
def State.settledJointLimit (s : State) (j : Joint) : Option Nat :=
  if s.jointEnvelope j = .breach then some (s.paramNat (jointLimit j).param) else none

/-- One joint settled: its record, its breach fault and its speed-limit kind (R89 to R92). -/
theorem State.settleJoint_eq (s : State) (j : Joint) : s.settleJoint j = { s with
    joints := {
      records := s.joints.records.set j (s.settledJoint j)
      faults := if s.Breaches j then s.joints.faults.latchBreach j else s.joints.faults }
    board := { s.board with limits := s.board.limits.set (jointLimit j) (s.settledJointLimit j) } } := by
  by_cases h : s.jointEnvelope j = .breach
  · have limit : s.settledJointLimit j = some (s.paramNat (jointLimit j).param) := if_pos h
    rw [limit]
    exact if_pos h
  · have limit : s.settledJointLimit j = none := if_neg h
    rw [limit]
    exact if_neg h

theorem State.speedBelow_congr {s t : State} (h : t.slots = s.slots) : t.speedBelow = s.speedBelow := by
  funext v
  rw [State.speedBelow, State.speedBelow, State.speed_congr h]

/-- A joint is settled from the tables, the slots and its own record. -/
theorem State.settledJoint_congr {s t : State} {j : Joint} (ht : t.tables = s.tables) (hs : t.slots = s.slots)
    (hr : t.joints.records.get j = s.joints.records.get j) :
    t.jointEnvelope j = s.jointEnvelope j ∧ t.settledJoint j = s.settledJoint j := by
  have envelope : t.jointEnvelope j = s.jointEnvelope j := by
    simp only [State.jointEnvelope, hr, State.readAngle_congr hs, State.readSchedule_congr ht hs, State.param_congr ht]
  have damping : t.jointDamping j = s.jointDamping j := by
    funext e
    simp only [State.jointDamping, State.present_congr hs, State.speedBelow_congr hs, State.param_congr ht]
  exact ⟨envelope, by rw [State.settledJoint, State.settledJoint, envelope, damping]⟩

/-! ## Both joints -/

/-- Both joints settled, before the stretch record is written and the damping set is offered (R89 to R92). -/
def State.jointsSettled (s : State) : State := { s with
  joints := {
    records := PerJoint.ofFn s.settledJoint
    faults := { s.joints.faults with
      breachJ1 := s.joints.faults.breachJ1 || decide (s.Breaches .j1)
      breachJ2 := s.joints.faults.breachJ2 || decide (s.Breaches .j2) } }
  board := { s.board with limits := { s.board.limits with
    jointJ1 := s.settledJointLimit .j1, jointJ2 := s.settledJointLimit .j2 } } }

/-- The faults of both joints' breaches, latched one after another (R92). -/
theorem JointFaults.latchBreach_both (f : JointFaults) (p q : Prop) [Decidable p] [Decidable q] :
    (if q then (if p then f.latchBreach .j1 else f).latchBreach .j2 else if p then f.latchBreach .j1 else f)
      = { f with breachJ1 := f.breachJ1 || decide p, breachJ2 := f.breachJ2 || decide q } := by
  by_cases hp : p <;> by_cases hq : q <;> simp [hp, hq, JointFaults.latchBreach]

theorem State.settleJoint_both (s : State) : (s.settleJoint .j1).settleJoint .j2 = s.jointsSettled := by
  set u := s.settleJoint .j1 with hu
  have tables : u.tables = s.tables := (s.settleJoint_changes .j1).get .tables
  have slots : u.slots = s.slots := (s.settleJoint_changes .j1).get .slots
  rw [State.settleJoint_eq] at hu
  have before : u.joints.records.get .j2 = s.joints.records.get .j2 := by rw [hu]; rfl
  obtain ⟨envelope, record⟩ := State.settledJoint_congr tables slots before
  have breaches : u.Breaches .j2 ↔ s.Breaches .j2 := by rw [State.Breaches, State.Breaches, before, envelope]
  have limit : u.settledJointLimit .j2 = s.settledJointLimit .j2 := by
    rw [State.settledJointLimit, State.settledJointLimit, envelope, State.paramNat_congr tables]
  rw [State.settleJoint_eq, record, limit]
  simp only [breaches]
  rw [hu, JointFaults.latchBreach_both]
  rfl

theorem State.jointTrigger_eq (s : State) : s.jointTrigger = s.jointsSettled.writeStretch.offerDamping := by
  rw [State.jointTrigger, State.settleJoint_both]

/-! ## What a STEER trigger leaves -/

@[simp] theorem State.jointTrigger_record (s : State) (j : Joint) :
    s.jointTrigger.joints.records.get j = s.settledJoint j := by
  rw [State.jointTrigger_eq, State.offerDamping_frame]
  exact PerJoint.get_ofFn _ _

/-- The board takes the joints' kinds and the stretch demand record; the offer leaves it (R92, R93). -/
theorem State.jointTrigger_board (s : State) : s.jointTrigger.board = s.jointsSettled.writeStretch.board := by
  rw [State.jointTrigger_eq]
  exact (State.offerDamping_changes _).get .board

theorem State.jointTrigger_limit (s : State) (j : Joint) :
    s.jointTrigger.board.limits.get (jointLimit j) = s.settledJointLimit j := by
  rw [State.jointTrigger_board]
  cases j <;> rfl

/-- The breach faults are those of the joints that enter BREACH; the offer leaves them (R92). -/
theorem State.jointTrigger_breaches (s : State) :
    s.jointTrigger.joints.faults.breachJ1 = (s.joints.faults.breachJ1 || decide (s.Breaches .j1))
      ∧ s.jointTrigger.joints.faults.breachJ2 = (s.joints.faults.breachJ2 || decide (s.Breaches .j2)) := by
  rw [State.jointTrigger_eq, State.offerDamping_frame]
  exact ⟨rfl, rfl⟩

/-- The stretch demand record by both joints' envelope states (R93). -/
theorem State.jointTrigger_stretch (s : State) : s.jointTrigger.board.stretch =
    { a1 := 0, a2 := 0
      a3 := if s.jointEnvelope .j1 = .breach then s.paramNat .stretchJ1 else 0
      a4 := max (if s.jointEnvelope .j1 = .breach then s.paramNat .stretchJ1 else 0)
                (if s.jointEnvelope .j2 = .breach then s.paramNat .stretchJ2 else 0) } := by
  have breach : ∀ j, s.jointsSettled.inBreach j = decide (s.jointEnvelope j = .breach) := fun j => by cases j <;> rfl
  have stretches : s.jointsSettled.paramNat = s.paramNat := State.paramNat_congr rfl
  rw [State.jointTrigger_board]
  simp only [State.writeStretch, breach, stretches, decide_eq_true_eq]

/-- The damping set of both joints' new levels is offered as R94 says. -/
theorem State.jointTrigger_offered (s : State) :
    let level := fun j => byte (dampingCode (s.jointTrigger.joints.records.get j).damping)
    s.Offered .d .ordinary (s.emitFrames [(.damp .j1, level .j1), (.damp .j2, level .j2)]) s.jointTrigger
      s.joints.faults.egressDrop s.jointTrigger.joints.faults.egressDrop := by
  have offered := s.jointsSettled.writeStretch.offerDamping_offered
  rw [State.emitFrames_eq_of_tables (s := s) (t := s.jointsSettled.writeStretch) rfl,
    ← State.jointTrigger_eq] at offered
  simp only [State.jointTrigger_record]
  exact offered

/-- What stays within the ports, the joint unit and the board is an update of these three fields. -/
theorem State.ChangesOnly.eq_of_joints {s t : State} (h : State.ChangesOnly [.ports, .joints, .board] s t) :
    t = { s with ports := t.ports, joints := t.joints, board := t.board } := by
  refine State.eq_of_same fun b => ?_
  have kept := h b
  cases b <;> first | rfl | exact kept (by decide)

/-- Settles O40: both joints are settled from the state before the trigger, and the damping set is offered after them. -/
theorem jointJudgement : Obligations.JointJudgement := by
  intro s
  have record := s.jointTrigger_record
  have limit := s.jointTrigger_limit
  have stretch := s.jointTrigger_stretch
  obtain ⟨breachJ1, breachJ2⟩ := s.jointTrigger_breaches
  have offered := s.jointTrigger_offered
  have frame := s.jointTrigger_changes.eq_of_joints
  generalize s.jointTrigger = u at *
  intro t after
  have settled : after = s.jointEnvelope := funext fun j => congrArg JointRecord.envelope (record j)
  have damping : ∀ j, (u.joints.records.get j).damping = s.jointDamping j (s.jointEnvelope j) := fun j =>
    congrArg JointRecord.damping (record j)
  clear_value after
  subst settled
  refine ⟨fun j a ha => ⟨fun hi => ?_, fun hb => ?_⟩, fun j => State.jointEnvelope_of_none, fun j => ?_, limit,
    breachJ1, breachJ2, stretch, ?_, frame⟩
  · rw [State.jointEnvelope_of_some ha, hi]
    exact settleEnvelope_inside_eq_breach
  · rw [State.jointEnvelope_of_some ha, hb]
    exact settleEnvelope_breach_eq_inside
  · rw [damping, State.jointDamping_eq]
  · intro level
    have bytes : level = fun j => byte (dampingCode (u.joints.records.get j).damping) := funext fun j => by
      simp only [level, t]
      cases (u.joints.records.get j).damping <;> rfl
    rw [bytes]
    exact offered

end Sys2Proof.Machine
end

section
/-! The brake distributor: loads, pressures, its two computations, and the verdict on the halt brake (R99 to R111). -/

namespace Sys2Proof.Machine

/-! ## Halt and the axles in DISAGREE -/

/-- Halt is active while the halt set holds a member or the halt latch is SET (R47). -/
theorem State.haltActive_iff (s : State) :
    s.haltActive = true ↔ (∃ m, s.board.haltSet.has m = true) ∨ s.board.haltLatch = true := by
  have nonempty : s.board.haltSet.isEmpty = false ↔ ∃ m, s.board.haltSet.has m = true := by
    rw [← Bool.not_eq_true, ReasonSet.isEmpty_iff]
    simp
  rw [State.haltActive, Bool.or_eq_true, Bool.not_eq_true', nonempty]

theorem PerAxle.all_iff (g : Axle → Bool) : PerAxle.all.all g = true ↔ ∀ a, g a = true := by
  simp [List.all_eq_true, PerAxle.mem_all]

/-- At most one axle is in DISAGREE (R111). -/
theorem State.disagreeingAxles_length_le_one (s : State) : s.disagreeingAxles.length ≤ 1 ↔
    ∀ a b, s.disagrees (.brake a) = true → s.disagrees (.brake b) = true → a = b := by
  have distinct : s.disagreeingAxles.Nodup := List.Nodup.filter _ (by decide)
  have member : ∀ a, a ∈ s.disagreeingAxles.toFinset ↔ s.disagrees (.brake a) = true := fun a => by
    simp [State.disagreeingAxles, PerAxle.mem_all]
  rw [← List.toFinset_card_of_nodup distinct, Finset.card_le_one]
  simp only [member]
  exact ⟨fun h a b ha hb => h a ha b hb, fun h a ha b hb => h a b ha hb⟩

/-- BRAKE as a computation and a recomputation leave it (R109). -/
theorem State.brakeLimit_brake (s : State) :
    ((∃ a, s.disagrees (.brake a) = true) → s.brakeLimit.board.limits.brake = some (s.paramNat .limitBrake))
      ∧ ((∀ a, s.disagrees (.brake a) = false) → s.brakeLimit.board.limits.brake = none) := by
  have clear := s.disagreeingAxles_isEmpty
  rw [State.brakeLimit_frame]
  refine ⟨fun ⟨a, ha⟩ => if_neg fun empty => ?_, fun agreed => if_pos (clear.mpr agreed)⟩
  rw [clear.mp empty a] at ha
  cases ha

/-! ## The halt brake -/

/-- An axle's echo passes where it counts as VALID and reaches the halt pressure less its tolerance (R111). -/
theorem State.echoPasses_iff (s : State) (a : Axle) : s.echoPasses a = true ↔
    ∃ v, s.readInt (slotBrakeEcho a) = some v ∧ s.param .holdPressure - s.param .haltTol ≤ v := by
  unfold State.echoPasses
  cases s.readInt (slotBrakeEcho a) <;> simp

/-- The verdict on the halt brake (R111). -/
theorem State.haltVerdict_iff (s : State) : s.haltVerdict = true ↔
    ((∃ m, s.board.haltSet.has m = true) ∨ s.board.haltLatch = true)
      ∧ (∀ a b, s.disagrees (.brake a) = true → s.disagrees (.brake b) = true → a = b)
      ∧ ∀ a, s.disagrees (.brake a) = false →
          ∃ v, s.readInt (slotBrakeEcho a) = some v ∧ s.param .holdPressure - s.param .haltTol ≤ v := by
  have others : ∀ a, (s.disagrees (.brake a) || s.echoPasses a) = true ↔
      (s.disagrees (.brake a) = false →
        ∃ v, s.readInt (slotBrakeEcho a) = some v ∧ s.param .holdPressure - s.param .haltTol ≤ v) := fun a => by
    rw [← s.echoPasses_iff a]
    cases s.disagrees (.brake a) <;> simp
  rw [State.haltVerdict, Bool.and_eq_true, Bool.and_eq_true, s.haltActive_iff, decide_eq_true_eq,
    s.disagreeingAxles_length_le_one, PerAxle.all_iff, and_assoc]
  simp only [others]

/-- A recomputation writes the verdict and sees to BRAKE (R108, R109). -/
theorem State.recomputeHalt_eq (s : State) :
    s.recomputeHalt = State.brakeLimit { s with board := { s.board with haltConfirmed := s.haltVerdict } } := rfl

/-- Settles O42: the verdict is written, and BRAKE follows the axles in DISAGREE, which the verdict leaves. -/
theorem haltConfirmed : Obligations.HaltConfirmed := by
  intro s
  have verdict : s.recomputeHalt.board.haltConfirmed = s.haltVerdict := by
    rw [State.recomputeHalt_eq, State.brakeLimit_frame]
  obtain ⟨posted, withdrawn⟩ :=
    State.brakeLimit_brake { s with board := { s.board with haltConfirmed := s.haltVerdict } }
  refine ⟨?_, ?_, posted, withdrawn⟩
  · rw [verdict]
    exact s.haltVerdict_iff
  · rw [State.recomputeHalt_eq, State.brakeLimit_frame]

/-! ## Loads and pressures -/

/-- An axle's pressure: service pressure, halt floor, stretch and clamp (R103). -/
theorem State.axlePressure_eq (s : State) (a : Axle) (load demand : Nat) :
    s.axlePressure a load demand = min (s.axleParams a).pmax (s.board.stretch.get a
      + max (load * demand * (s.axleParams a).bg / 65536) (if s.haltActive then s.paramNat .holdPressure else 0)) := by
  simp only [State.axlePressure]
  split <;> omega

theorem State.axlePressure_le (s : State) (a : Axle) (load demand : Nat) :
    s.axlePressure a load demand ≤ (s.axleParams a).pmax := min_le_right _ _

/-- While halt is active no pressure is below the halt pressure, but where PMAX is (R103). -/
theorem State.le_axlePressure {s : State} (h : s.haltActive = true) (a : Axle) (load demand : Nat) :
    min (s.paramNat .holdPressure) (s.axleParams a).pmax ≤ s.axlePressure a load demand := by
  rw [s.axlePressure_eq, if_pos h]
  omega

theorem State.axleLoad_of_snapshot {s : State} {snap : Snapshot} (h : s.brakes.snapshot = some snap) (a : Axle) :
    s.axleLoad a = (snap.loads.get a, .snapshot) := by
  simp only [State.axleLoad, h]

/-- Without a snapshot the load comes from both bag pressures, and from FALLBACK where one of them is missing (R99). -/
theorem State.axleLoad_of_pressures {s : State} {a : Axle} {l r : Int} (h : s.brakes.snapshot = none)
    (hl : s.readInt (slotPressure (leftCorner a)) = some l) (hr : s.readInt (slotPressure (rightCorner a)) = some r) :
    s.axleLoad a
      = (min 4000 ((s.axleParams a).base + (l + r).toNat * (s.axleParams a).k / 256), .pressures) := by
  simp only [State.axleLoad, State.freshLoad, h, hl, hr, min_comm]

theorem State.axleLoad_of_missing {s : State} {a : Axle} (h : s.brakes.snapshot = none)
    (hm : s.readInt (slotPressure (leftCorner a)) = none ∨ s.readInt (slotPressure (rightCorner a)) = none) :
    s.axleLoad a = ((s.axleParams a).fallback, .fallback) := by
  simp only [State.axleLoad, State.freshLoad, h]
  obtain hl | hr := hm
  · simp only [hl]
  · simp only [hr]
    cases s.readInt (slotPressure (leftCorner a)) <;> rfl

/-! ## The demand -/

theorem inRange_brakeDemand (v : SlotWord) :
    inRange slotBrakeDemand v = false ↔ v.toInt < 0 ∨ 1000 < v.toInt := by
  have range : usableRange slotBrakeDemand = some (0, 1000) := by decide
  simp [inRange_eq_false_iff, range]

/-- BRAKE_DEMAND counts as VALID (R33). -/
def State.demandUsable (s : State) : Prop :=
  s.slots[slotBrakeDemand].validity = .valid ∧ 0 ≤ s.slots[slotBrakeDemand].value.toInt
    ∧ s.slots[slotBrakeDemand].value.toInt ≤ 1000

/-- A usable demand is read as the number that its pattern is (R32). -/
theorem State.readInt_brakeDemand_of_usable {s : State} (h : s.demandUsable) :
    s.readInt slotBrakeDemand = some (s.slots[slotBrakeDemand].value.toNat : Int) := by
  obtain ⟨valid, low, high⟩ := h
  rw [← BitVec.toInt_eq_toNat_of_msb (BitVec.msb_eq_toInt ▸ decide_eq_false (not_lt.mpr low))]
  have within : inRange slotBrakeDemand s.slots[slotBrakeDemand].value = true := by
    rw [← Bool.not_eq_false, inRange_brakeDemand]
    omega
  simp only [State.readInt, State.readSlot, valid, within, and_self, if_true, Option.map_some]

theorem State.readInt_brakeDemand_of_not_usable {s : State} (h : ¬s.demandUsable) :
    s.readInt slotBrakeDemand = none := by
  rw [State.readInt_eq_none_iff, inRange_brakeDemand]
  by_contra usable
  push Not at usable
  exact h usable

/-- DEMAND_STALE's condition: a demand that came and is not usable (R107). -/
theorem State.lostSlot_brakeDemand (s : State) : s.lostSlot slotBrakeDemand =
    (decide (s.slots[slotBrakeDemand].validity = .stale)
      || decide (s.slots[slotBrakeDemand].validity = .valid
          ∧ (s.slots[slotBrakeDemand].value.toInt < 0 ∨ 1000 < s.slots[slotBrakeDemand].value.toInt))) := by
  rw [Bool.eq_iff_iff, State.lostSlot]
  simp only [Bool.or_eq_true, Bool.and_eq_true, Bool.not_eq_true', decide_eq_true_eq, inRange_brakeDemand]

/-! ## The two computations -/

/-- A computation takes nothing from DEMAND_STALE and keeps it, so that it may as well be latched after it (R107). -/
theorem State.Computed.of_latched {s t : State} {demand : Nat}
    (h : (s.latchBrake fun f => { f with demandStale := true }).Computed demand false t) : s.Computed demand true t where
  sources := h.sources
  fallback := h.fallback
  posted := h.posted
  withdrawn := h.withdrawn
  offered := h.offered
  frame := h.frame.trans (by simp [State.latchBrake])

/-- A computation with STALE_DECEL (R106, R107). -/
theorem State.computeStale_computed (s : State) :
    s.Computed (s.paramNat .staleDecel) (s.lostSlot slotBrakeDemand) s.computeStale := by
  unfold State.computeStale
  cases s.lostSlot slotBrakeDemand with
  | false => exact s.computePressures_computed _
  | true => exact .of_latched (State.computePressures_computed _ _)

theorem State.brakeTrigger_of_some {s : State} {d : Int} (h : s.readInt slotBrakeDemand = some d) :
    s.brakeTrigger = s.computePressures d.toNat := by
  simp only [State.brakeTrigger, h]

theorem State.brakeTrigger_of_none {s : State} (h : s.readInt slotBrakeDemand = none) :
    s.brakeTrigger = s.computeStale := by
  simp only [State.brakeTrigger, h]

/-- A mark leaves all to the triggers while the demand counts as VALID, and computes as a trigger does while it is missing
(R106). -/
theorem State.brakeMark_eq (s : State) :
    s.brakeMark = if (s.readInt slotBrakeDemand).isSome then s else s.brakeTrigger := by
  rw [State.brakeMark, State.present_iff_readInt]
  cases h : s.readInt slotBrakeDemand with
  | none => exact (State.brakeTrigger_of_none h).symm
  | some d => rfl

/-- Settles O41. -/
theorem brakePressures : Obligations.BrakePressures := by
  refine ⟨fun s a load demand => ⟨s.axlePressure_eq a load demand, s.axlePressure_le a load demand,
    fun halt => State.le_axlePressure halt a load demand, fun snap h => State.axleLoad_of_snapshot h a,
    fun l r h hl hr => State.axleLoad_of_pressures h hl hr, fun h hm => State.axleLoad_of_missing h hm⟩, fun s => ?_⟩
  refine ⟨rfl, fun usable => ?_, fun missing => ?_⟩
  · have read := State.readInt_brakeDemand_of_usable usable
    rw [State.brakeMark_eq, State.brakeTrigger_of_some read, read]
    exact ⟨s.computePressures_computed _, rfl⟩
  · have read := State.readInt_brakeDemand_of_not_usable missing
    rw [State.brakeMark_eq, State.brakeTrigger_of_none read, read, ← State.lostSlot_brakeDemand]
    exact ⟨s.computeStale_computed, rfl⟩

end Sys2Proof.Machine
end

section
/-! Which blocks a management request changes (R186, R189, R196). -/

namespace Sys2Proof.Machine

/-- The blocks that the effects of an answered request change, but for a STATUS that clears the fault sets. -/
def requestBlocks : List Block := [.ports, .doors, .tables, .agent]

theorem State.respond_changes (s : State) (code tag : Byte) (r : Reply) {effect : State → State}
    (h : ∀ u : State, State.ChangesOnly requestBlocks u (effect u)) :
    State.ChangesOnly requestBlocks s (s.respond code tag r effect) := by
  unfold State.respond
  split
  · rename_i u hu
    exact ((State.offerSet_changes hu).mono (by decide)).trans (h u)
  · exact s.responseRefused_changes.mono (by decide)

theorem State.answer_changes (s : State) (code tag : Byte) (r : Reply) {effect : State → State}
    (h : ∀ u : State, State.ChangesOnly requestBlocks u (effect u)) :
    State.ChangesOnly requestBlocks s (s.answer code tag r effect) :=
  s.respond_changes code tag r fun u => (h u).trans ((State.disarm_changes _).mono (by decide))

theorem State.deny_changes (s : State) (code tag : Byte) (e : Status) :
    State.ChangesOnly requestBlocks s (s.deny code tag e) := s.answer_changes _ _ _ (.refl _)

theorem State.setTables_changes (s : State) (ts : TableStore) : State.ChangesOnly requestBlocks s { s with tables := ts } := by
  intro b hb
  cases b <;> first | rfl | exact absurd (by decide) hb

/-- A STATUS clears fault sets where it is asked to, and no other request does (R189). -/
theorem State.statusRequest_cases (s : State) (rest : List Byte) :
    State.ChangesOnly requestBlocks s (s.statusRequest rest)
      ∨ ∃ u, State.ChangesOnly [.ports] s u ∧ s.statusRequest rest = u.clearFaults.disarm := by
  unfold State.statusRequest
  split
  · exact .inl (s.deny_changes _ _ _)
  · rename_i clear _
    cases clear with
    | false => exact .inl (s.answer_changes _ _ _ (.refl _))
    | true =>
      simp only [if_true, State.answer, State.respond]
      split
      · exact .inr ⟨_, State.offerSet_changes ‹_›, rfl⟩
      · exact .inl (s.responseRefused_changes.mono (by decide))

theorem State.takeRequest_changes (s : State) {i : Instr} (hi : requestData i ≠ none) (hr : ¬s.resetsBy i)
    (hs : ∀ rest, i ≠ .status rest) : State.ChangesOnly requestBlocks s (s.takeRequest i) := by
  have cursor := fun (u : State) c => (u.setCursor_changes c).mono (bs' := requestBlocks) (by decide)
  cases i with
  | ident rest =>
    simp only [State.takeRequest, State.identRequest]
    refine .ite (s.deny_changes _ _ _) ?_
    split
    · exact s.answer_changes _ _ _ (.refl _)
    · exact s.deny_changes _ _ _
  | status rest => exact absurd rfl (hs rest)
  | read rest =>
    simp only [State.takeRequest, State.readRequest]
    split
    · exact s.deny_changes _ _ _
    · split
      · exact s.deny_changes _ _ _
      · exact s.answer_changes _ _ _ fun u => cursor u _
  | write rest =>
    simp only [State.takeRequest, State.writeRequest]
    split
    · exact s.deny_changes _ _ _
    · refine .ite (s.deny_changes _ _ _) ?_
      split
      · exact s.deny_changes _ _ _
      · exact s.answer_changes _ _ _ fun u => (u.setTables_changes _).trans (cursor _ _)
  | swap rest =>
    simp only [State.takeRequest, State.swapRequest]
    split
    · exact s.deny_changes _ _ _
    · refine .ite (s.deny_changes _ _ _) ?_
      split
      · exact s.deny_changes _ _ _
      · exact .ite (s.answer_changes _ _ _ (.refl _)) (s.answer_changes _ _ _ fun u => u.setTables_changes _)
  | commit rest =>
    simp only [State.takeRequest, State.commitRequest]
    split
    · exact s.deny_changes _ _ _
    · exact s.answer_changes _ _ _ fun u => .ite (u.setTables_changes _) (.refl _ _)
  | hold rest => exact s.answer_changes _ _ _ fun u => u.setTables_changes _
  | release rest => exact s.answer_changes _ _ _ fun u => u.setTables_changes _
  | discard rest =>
    simp only [State.takeRequest, State.discardRequest]
    split
    · exact s.deny_changes _ _ _
    · exact s.answer_changes _ _ _ fun u => u.setTables_changes _
  | events rest =>
    simp only [State.takeRequest, State.eventsRequest]
    split
    · exact s.deny_changes _ _ _
    · exact s.answer_changes _ _ _ fun u => .ite ((u.clearLatches_changes _).mono (by decide)) (.refl _ _)
  | resetArm rest =>
    refine s.respond_changes _ _ _ fun u b hb => ?_
    cases b <;> first | rfl | exact absurd (by decide) hb
  | resetGo rest =>
    simp only [State.takeRequest, State.resetGoRequest]
    split
    · exact s.respond_changes _ _ _ (.refl _)
    · rename_i armed
      split
      · exact s.respond_changes _ _ _ fun u => u.disarm_changes.mono (by decide)
      · rename_i still
        refine absurd ⟨⟨rest, rfl⟩, armed, ?_⟩ hr
        simpa [← Bool.not_eq_true, imp_iff_not_or] using still
  | badRequest data => exact s.deny_changes _ _ _
  | _ => exact absurd rfl hi

end Sys2Proof.Machine
end

section
/-! What each operation can do to the kneel state, its timers and the load snapshot. -/

namespace Sys2Proof.Machine

/-! ## The sequencer's own transitions (R136) -/

@[simp] theorem State.rideNormal_kneel (s : State) : s.rideNormal.kneel = s.kneel := s.rideNormal_changes.get .kneel
@[simp] theorem State.rideNormal_brakes (s : State) : s.rideNormal.brakes = s.brakes := s.rideNormal_changes.get .brakes
@[simp] theorem State.kerbRequest_kneel (s : State) (q : KerbRequest) : (s.kerbRequest q).kneel = s.kneel :=
  (s.kerbRequest_changes q).get .kneel
@[simp] theorem State.kerbRequest_brakes (s : State) (q : KerbRequest) : (s.kerbRequest q).brakes = s.brakes :=
  (s.kerbRequest_changes q).get .brakes
@[simp] theorem State.requestSnapshot_kneel (s : State) : s.requestSnapshot.kneel = s.kneel :=
  s.requestSnapshot_changes.get .kneel

/-- A request for a snapshot leaves one (R100). -/
theorem State.requestSnapshot_isSome (s : State) : s.requestSnapshot.brakes.snapshot.isSome = true := by
  unfold State.requestSnapshot
  split
  · rename_i h
    rw [h]
    rfl
  · rfl

theorem State.enterArming_kneel (s : State) : s.enterArming.kneel =
    { s.kneel with state := .arming, armTimer := some (s.paramNat .kneelArmTimeout) } := by
  simp [State.enterArming]

theorem State.enterLowering_kneel (s : State) : s.enterLowering.kneel =
    { s.kneel with state := .lowering, armTimer := none, deadline := some (s.paramNat .kneelDeadline) } := by
  simp [State.enterLowering]

theorem State.enterLowering_snapshot (s : State) : s.enterLowering.brakes.snapshot.isSome = true := by
  rw [State.enterLowering, State.kerbRequest_brakes]
  exact State.requestSnapshot_isSome _

theorem State.enterPaused_kneel (s : State) :
    s.enterPaused.kneel = { s.kneel with state := .paused, deadline := none } := by
  simp [State.enterPaused]

theorem State.enterRaising_kneel (s : State) : s.enterRaising.kneel =
    { s.kneel with state := .raising, deadline := some (s.paramNat .kneelDeadline) } := by
  simp [State.enterRaising]

end Sys2Proof.Machine
end

section
/-! Every step keeps the kneel sequencer sound (R100, R101, R135, R136). -/

namespace Sys2Proof.Machine

/-! ## What keeps the sequencer -/

/-- The kneel state, the running of its two timers, the load snapshot and the part state stand. -/
structure State.KneelKept (s t : State) : Prop where
  state : t.kneel.state = s.kneel.state
  armTimer : t.kneel.armTimer.isSome = s.kneel.armTimer.isSome
  deadline : t.kneel.deadline.isSome = s.kneel.deadline.isSome
  snapshot : t.brakes.snapshot = s.brakes.snapshot
  run : t.inRun = s.inRun

namespace State.KneelKept

variable {s t u : State}

theorem trans (h : s.KneelKept t) (h' : t.KneelKept u) : s.KneelKept u :=
  ⟨h'.state.trans h.state, h'.armTimer.trans h.armTimer, h'.deadline.trans h.deadline, h'.snapshot.trans h.snapshot,
    h'.run.trans h.run⟩

theorem of_eq (hk : t.kneel = s.kneel) (hb : t.brakes.snapshot = s.brakes.snapshot) (hr : t.inRun = s.inRun) :
    s.KneelKept t := ⟨by rw [hk], by rw [hk], by rw [hk], hb, hr⟩

theorem of_changes {bs : List Block} (h : State.ChangesOnly bs s t) (hk : Block.kneel ∉ bs := by decide)
    (hb : Block.brakes ∉ bs := by decide) (ht : Block.tables ∉ bs := by decide) : s.KneelKept t :=
  of_eq (h.get .kneel hk) (congrArg Brakes.snapshot (h.get .brakes hb)) (State.inRun_congr (h.get .tables ht))

theorem ite {c : Prop} [Decidable c] (h : s.KneelKept t) (h' : s.KneelKept u) : s.KneelKept (if c then t else u) := by
  split
  · exact h
  · exact h'

end State.KneelKept

/-- Dropping KNEEL_FAULT changes the post record alone of the sequencer (R136, R145). -/
theorem State.dropKneelFault_kneelKept (s : State) : s.KneelKept s.dropKneelFault := by
  unfold State.dropKneelFault
  split <;> exact ⟨rfl, rfl, rfl, rfl, rfl⟩

/-- A pressure computation leaves the load snapshot and the kneel sequencer (R99). -/
theorem State.Computed.kneelKept {s t : State} {demand : Nat} {lost : Bool} (h : s.Computed demand lost t) :
    s.KneelKept t := by
  rw [h.frame]
  exact .of_eq rfl rfl rfl

theorem State.brakeTrigger_kneelKept (s : State) : s.KneelKept s.brakeTrigger := by
  cases h : s.readInt slotBrakeDemand with
  | none => exact State.brakeTrigger_of_none h ▸ s.computeStale_computed.kneelKept
  | some d => exact State.brakeTrigger_of_some h ▸ (s.computePressures_computed _).kneelKept

theorem State.brakeMark_kneelKept (s : State) : s.KneelKept s.brakeMark := by
  rw [State.brakeMark_eq]
  exact .ite (.of_eq rfl rfl rfl) s.brakeTrigger_kneelKept

/-- At a mark the kneel sequencer's action alone touches it. -/
theorem State.markAction_kneelKept (s : State) {a : MarkAction} (h : ∀ b, a ≠ .kneel b) : s.KneelKept (s.markAction a) := by
  cases a with
  | chassis => exact .of_changes s.offerChassis_changes
  | steering => exact .of_changes s.steerMark_changes
  | joints => exact .of_changes s.jointMark_changes
  | brakes => exact s.brakeMark_kneelKept
  | kneel b => exact absurd rfl (h b)
  | followSync => exact .of_changes s.followSync_changes

/-- What the other actions of a mark keep of the sequencer. -/
theorem State.run_markAction_kneelKept (u : State) {rest : List MarkAction} (hn : ∀ a ∈ rest, ∀ e, a ≠ .kneel e)
    {order : List (MarkAction × Nat)} (ho : ∀ x ∈ order, x.1 ∈ rest) : u.KneelKept (u.run State.markAction order) :=
  State.run_induction (P := u.KneelKept) (fun _ _ h => h.trans (.of_eq rfl rfl rfl))
    (fun a ha t h => h.trans (t.markAction_kneelKept (hn a ha))) ho (.of_eq rfl rfl rfl)

/-- At the mark that enters RUN the sequencer's action is one of the actions (R137). -/
theorem markActions_entering {report : MarkReport} (h : report.enteredRun = true) (b : Bool) :
    ∃ rest, (markActions report b).Perm (.kneel true :: rest) ∧ ∀ a ∈ rest, ∀ e, a ≠ .kneel e := by
  refine ⟨[.chassis, .steering, .joints, .brakes] ++ if b && !report.applied.fit then [.followSync] else [], ?_, ?_⟩
  · simp only [markActions, h, Bool.or_true, if_true, List.append_assoc]
    exact List.perm_middle
  · intro a ha e he
    subst he
    simp at ha

/-- RUN is not left at a delivery (R183). -/
theorem State.deliver_inRun {s : State} (hr : s.inRun = true) (d : Delivery) : (s.deliver d).inRun = true := by
  by_cases hd : d = .sync
  · subst hd
    exact (s.cycleMark_inRun _).trans (State.storeMark_inRun hr)
  · exact (State.inRun_congr ((s.deliver_changes hd).get .tables)).trans hr

theorem State.tick_kneelKept (s : State) : s.KneelKept s.tick where
  state := rfl
  armTimer := Timer.isSome_tick _
  deadline := Timer.isSome_tick _
  snapshot := rfl
  run := rfl

theorem State.watchExpiry_kneelKept (s : State) (i : Fin 96) : s.KneelKept (s.watchExpiry i) := by
  by_cases h : s.path.entries[i].watch = none
  · rw [State.watchExpiry_of_idle h]
    exact .of_eq rfl rfl rfl
  · have silenced : s.KneelKept (s.unwatched i) := by
      rw [State.unwatched_eq]
      exact .of_eq rfl rfl rfl
    exact silenced.trans (.of_changes (State.watchExpiry_changes h))

/-- Clearing fault sets leaves the sequencer's state and the load snapshot (R114, R148, R189). -/
theorem State.takeRequest_kneelKept (s : State) {i : Instr} (hi : requestData i ≠ none) (hr : ¬s.resetsBy i) :
    s.KneelKept (s.takeRequest i) := by
  have run : (s.takeRequest i).inRun = s.inRun := by
    obtain ⟨-, partState, -⟩ := (s.responds_takeRequest hi hr).active
    rw [State.inRun, State.inRun, partState]
  have within : State.ChangesOnly requestBlocks s (s.takeRequest i) → s.KneelKept (s.takeRequest i) := fun h =>
    .of_eq (h.get .kneel) (congrArg Brakes.snapshot (h.get .brakes)) run
  by_cases hs : ∃ rest, i = .status rest
  · obtain ⟨rest, rfl⟩ := hs
    obtain h | ⟨u, hu, ht⟩ := s.statusRequest_cases rest
    · exact within h
    · show s.KneelKept (s.statusRequest rest)
      rw [ht]
      exact (State.KneelKept.of_changes hu).trans ⟨rfl, rfl, rfl, rfl, rfl⟩
  · exact within (s.takeRequest_changes hi hr fun rest e => hs ⟨rest, e⟩)

/-! ## Soundness at the sequencer's events -/

namespace State.KneelSound

variable {s t : State}

theorem kept (h : s.KneelSound) (k : s.KneelKept t) : t.KneelSound where
  armTimer := by rw [k.armTimer, k.state, h.armTimer]
  deadline hr := by rw [k.deadline, k.state, h.deadline (k.run ▸ hr)]
  configuring hr := by
    obtain ⟨raising, idle⟩ := h.configuring (k.run ▸ hr)
    refine ⟨k.state.trans raising, ?_⟩
    rw [← Option.not_isSome_iff_eq_none, k.deadline, idle]
    nofun
  snapshotRide hs := k.snapshot.trans (h.snapshotRide (k.state ▸ hs))
  snapshotLow hs := k.snapshot ▸ h.snapshotLow (k.state ▸ hs)

theorem of_changes {bs : List Block} (h : s.KneelSound) (c : State.ChangesOnly bs s t) (hk : Block.kneel ∉ bs := by decide)
    (hb : Block.brakes ∉ bs := by decide) (ht : Block.tables ∉ bs := by decide) : t.KneelSound :=
  h.kept (.of_changes c hk hb ht)

theorem ite {c : Prop} [Decidable c] (h : s.KneelSound) (h' : t.KneelSound) : (if c then s else t).KneelSound := by
  split
  · exact h
  · exact h'

/-- In RUN the sequencer is sound where its timers and the load snapshot fit its state. -/
theorem of_run (hr : s.inRun = true) (arm : s.kneel.armTimer.isSome = decide (s.kneel.state = .arming))
    (deadline : s.kneel.deadline.isSome = decide (s.kneel.state = .lowering ∨ s.kneel.state = .raising))
    (ride : s.kneel.state = .ride → s.brakes.snapshot = none)
    (low : (s.kneel.state = .lowering ∨ s.kneel.state = .knelt ∨ s.kneel.state = .paused) →
      s.brakes.snapshot.isSome = true) : s.KneelSound :=
  ⟨arm, fun _ => deadline, fun h => absurd hr (by rw [h]; nofun), ride, low⟩

/-- Outside RAISING the part is in RUN. -/
theorem run_of_ne (h : s.KneelSound) (hs : s.kneel.state ≠ .raising) : s.inRun = true := by
  by_contra hr
  exact hs (h.configuring (by simpa using hr)).1

/-! ## Entries (R136) -/

theorem enterArming (h : s.KneelSound) (hs : s.kneel.state = .ride) : s.enterArming.KneelSound := by
  have run := h.run_of_ne (by rw [hs]; nofun)
  have idle : s.kneel.deadline = none := by simpa [hs] using h.deadline run
  refine .of_run ((State.inRun_congr (s.enterArming_changes.get .tables)).trans run) ?_ ?_ ?_ ?_
  all_goals simp [s.enterArming_kneel, idle]

theorem enterLowering (hr : s.inRun = true) : s.enterLowering.KneelSound := by
  refine .of_run ((State.inRun_congr (s.enterLowering_changes.get .tables)).trans hr) ?_ ?_ ?_ fun _ =>
    s.enterLowering_snapshot
  all_goals simp [s.enterLowering_kneel]

theorem enterKnelt (h : s.KneelSound) (hs : s.kneel.state = .lowering) : s.enterKnelt.KneelSound := by
  have run := h.run_of_ne (by rw [hs]; nofun)
  have unarmed : s.kneel.armTimer = none := by simpa [hs] using h.armTimer
  refine .of_run run ?_ ?_ ?_ fun _ => h.snapshotLow (.inl hs)
  all_goals simp [State.enterKnelt, unarmed]

theorem enterPaused (h : s.KneelSound) (hs : s.kneel.state = .lowering) : s.enterPaused.KneelSound := by
  have run := h.run_of_ne (by rw [hs]; nofun)
  have unarmed : s.kneel.armTimer = none := by simpa [hs] using h.armTimer
  have brakes : s.enterPaused.brakes = s.brakes := s.enterPaused_changes.get .brakes
  refine .of_run ((State.inRun_congr (s.enterPaused_changes.get .tables)).trans run) ?_ ?_ ?_ fun _ =>
    brakes ▸ h.snapshotLow (.inl hs)
  all_goals simp [s.enterPaused_kneel, unarmed]

theorem enterRaising (h : s.KneelSound) (hr : s.inRun = true) (hs : s.kneel.state ≠ .arming) :
    s.enterRaising.KneelSound := by
  have unarmed : s.kneel.armTimer = none := by simpa [hs] using h.armTimer
  refine .of_run ((State.inRun_congr (s.enterRaising_changes.get .tables)).trans hr) ?_ ?_ ?_ ?_
  all_goals simp [s.enterRaising_kneel, unarmed]

theorem dropKneelFault (h : s.KneelSound) : s.dropKneelFault.KneelSound := h.kept s.dropKneelFault_kneelKept

theorem enterRide (hr : s.inRun = true) (inBand : Bool) : (s.enterRide inBand).KneelSound := by
  have entered : (s.enterRide false).KneelSound := by
    refine .of_run hr rfl rfl (fun _ => rfl) ?_
    simp [State.enterRide]
  cases inBand with
  | false => exact entered
  | true => exact entered.dropKneelFault

/-! ## Re-evaluations and notices -/

/-- In RUN a re-evaluation makes at most one transition, to an entry whose state fits it (R137 to R145). -/
theorem kneelReevaluate (h : s.KneelSound) (hr : s.inRun = true) (ask : KneelAsk) :
    (s.kneelReevaluate ask).KneelSound := by
  unfold State.kneelReevaluate
  cases hs : s.kneel.state with
  | ride =>
    have dropped : s.KneelKept (if s.kneel.faultPosted ∧ s.allInBand then s.dropKneelFault else s) :=
      .ite s.dropKneelFault_kneelKept (.of_eq rfl rfl rfl)
    exact .ite ((h.kept dropped).enterArming (dropped.state.trans hs)) (h.kept dropped)
  | arming => exact .ite (enterRide hr false) (.ite (enterLowering hr) h)
  | lowering =>
    exact .ite (h.enterRaising hr (by rw [hs]; nofun)) (.ite (h.enterPaused hs) (.ite (h.enterKnelt hs) h))
  | knelt => exact .ite (h.enterRaising hr (by rw [hs]; nofun)) h
  | paused => exact .ite (h.enterRaising hr (by rw [hs]; nofun)) (.ite (enterLowering hr) h)
  | raising => exact .ite (enterLowering hr) (.ite (enterRide hr true) h)

theorem releaseNotice (h : s.KneelSound) : s.releaseNotice.KneelSound := by
  unfold State.releaseNotice
  split
  · rename_i arms
    exact h.enterArming arms.1
  · exact h

/-! ## Timers (R140, R142, R146) -/

theorem kneelArmExpiry (h : s.KneelSound) : s.kneelArmExpiry.KneelSound := by
  unfold State.kneelArmExpiry
  split
  · exact h
  · rename_i running
    have arming : s.kneel.state = .arming :=
      of_decide_eq_true (h.armTimer.symm.trans (Option.isSome_iff_ne_none.mpr running))
    have run := h.run_of_ne (by rw [arming]; nofun)
    rw [arming]
    exact (enterRide run false).kept ⟨rfl, rfl, rfl, rfl, rfl⟩

theorem kneelDeadlineExpiry (h : s.KneelSound) : s.kneelDeadlineExpiry.KneelSound := by
  unfold State.kneelDeadlineExpiry
  split
  · exact h
  · rename_i running
    have run : s.inRun = true := by
      by_contra hr
      exact running (h.configuring (by simpa using hr)).2
    have moving : s.kneel.state = .lowering ∨ s.kneel.state = .raising :=
      of_decide_eq_true ((h.deadline run).symm.trans (Option.isSome_iff_ne_none.mpr running))
    obtain lowering | raising := moving
    · rw [lowering]
      exact (h.enterPaused lowering).kept ⟨rfl, rfl, rfl, rfl, rfl⟩
    · rw [raising]
      exact (enterRide run false).kept ⟨rfl, rfl, rfl, rfl, rfl⟩

/-! ## Doors: a release notice alone reaches the sequencer (R138) -/

theorem afterTransition (h : s.KneelSound) (d : Door) (before : DoorState) : (s.afterTransition d before).KneelSound := by
  have synced := h.of_changes (s.syncReason_changes d)
  exact .ite synced.releaseNotice synced

theorem moveDoor (h : s.KneelSound) (d : Door) (x : DoorState) (gate : Bool) : (s.moveDoor d x gate).KneelSound :=
  ((h.of_changes (s.setDoor_changes _ _)).afterTransition d _).of_changes (State.offerDoor_changes _ _ _)

theorem doorTrigger (h : s.KneelSound) (d : Door) : (s.doorTrigger d).KneelSound := by
  simp only [State.doorTrigger]
  split
  · exact h
  · split
    · exact h.of_changes (s.losePosition_changes d false)
    · have stepped := fun r x => (h.of_changes (s.stepDoor_changes d r x)).afterTransition d (s.door d).state
      exact of_changes (.ite ((stepped _ _).of_changes (State.latchEvent_changes _ _ _)) (stepped _ _))
        (State.offerDoor_changes _ _ _)

theorem doorRequest (h : s.KneelSound) (d : Door) : (s.doorRequest d).KneelSound := by
  simp only [State.doorRequest]
  split
  · exact h
  · split
    · exact h
    · exact (h.of_changes (s.setDoor_changes _ _)).of_changes (State.syncReason_changes _ _)
    · split
      · exact h.moveDoor d _ _
      · exact h

theorem releaseHoldExpiry (h : s.KneelSound) (d : Door) : (s.releaseHoldExpiry d).KneelSound := by
  simp only [State.releaseHoldExpiry]
  exact .ite h (.ite (h.moveDoor d _ _) (h.of_changes (s.setDoor_changes _ _)))

/-! ## Marks -/

/-- A mark in RUN: the sequencer re-evaluates where the mark's report asks it to, and RUN is not entered again. -/
theorem cycleMark_of_run (h : s.KneelSound) (hr : s.inRun = true) (b : Bool) : (s.cycleMark b).KneelSound := by
  have run := State.storeMark_inRun hr
  have entered : s.storeMark.2.enteredRun = false := by rw [s.storeMark_report.2, hr]; rfl
  have stored : s.storeMark.1.KneelSound :=
    h.kept (.of_eq (s.storeMark_changes.get .kneel) (congrArg Brakes.snapshot (s.storeMark_changes.get .brakes))
      (run.trans hr.symm))
  have both := ((s.cycleMark_takes b).1 run).induction (P := fun t => t.KneelSound ∧ t.inRun = true)
    (fun t n ht => ⟨ht.1.kept (.of_eq rfl rfl rfl), ht.2⟩) (fun a ha t ht => ?_) ⟨stored, run⟩
  · exact both.1
  · obtain ⟨sound, still⟩ := ht
    refine ⟨?_, (State.inRun_congr ((t.markAction_changes a).get .tables)).trans still⟩
    by_cases hk : ∃ e, a = .kneel e
    · obtain ⟨e, rfl⟩ := hk
      obtain ⟨-, rfl⟩ : s.storeMark.2.applied.corner = true ∧ e = false := by simpa [markActions, entered] using ha
      exact sound.kneelReevaluate still .nothing
    · exact sound.kept (t.markAction_kneelKept fun e he => hk ⟨e, he⟩)

/-- The sequencer's action at the mark that enters RUN starts the deadline of the RAISING that it finds (R135, R137). -/
theorem kneelMark_entering (arm : s.kneel.armTimer = none) (hs : s.kneel.state = .raising) (hr : s.inRun = true) :
    (s.kneelMark true).KneelSound := by
  have started : (s.setKneel fun k => { k with deadline := some (s.paramNat .kneelDeadline) }).KneelSound := by
    refine .of_run hr ?_ ?_ ?_ ?_
    all_goals simp [arm, hs]
  exact started.kneelReevaluate hr .nothing

/-- A mark that enters RUN (R135, R183). -/
theorem cycleMark_entering (h : s.KneelSound) (hr : s.inRun = false) (run : s.storeMark.1.inRun = true) (b : Bool) :
    (s.cycleMark b).KneelSound := by
  obtain ⟨raising, -⟩ := h.configuring hr
  have unarmed : s.kneel.armTimer = none := by simpa [raising] using h.armTimer
  have kneel : s.storeMark.1.kneel = s.kneel := s.storeMark_changes.get .kneel
  have entered : s.storeMark.2.enteredRun = true := by rw [s.storeMark_report.2, hr, run]; rfl
  obtain ⟨rest, perm, others⟩ := markActions_entering entered b
  obtain ⟨before, after, n, hbefore, hafter, ht⟩ := ((s.cycleMark_takes b).1 run).around perm
  have found := (s.storeMark.1.run_markAction_kneelKept others hbefore).trans
    (u := { s.storeMark.1.run State.markAction before with orderCount := n }) (.of_eq rfl rfl rfl)
  have started := kneelMark_entering (by
    rw [← Option.not_isSome_iff_eq_none, found.armTimer, kneel, unarmed]
    nofun) (by rw [found.state, kneel, raising]) (found.run.trans run)
  rw [ht]
  exact started.kept (State.run_markAction_kneelKept _ others hafter)

theorem cycleMark (h : s.KneelSound) (b : Bool) : (s.cycleMark b).KneelSound := by
  cases hr : s.inRun with
  | true => exact h.cycleMark_of_run hr b
  | false =>
    cases run : s.storeMark.1.inRun with
    | true => exact h.cycleMark_entering hr run b
    | false =>
      rw [(s.cycleMark_takes b).2 run]
      exact h.kept (.of_eq (s.storeMark_changes.get .kneel)
        (congrArg Brakes.snapshot (s.storeMark_changes.get .brakes)) (run.trans hr.symm))

/-! ## Arrivals -/

theorem deliver (h : s.KneelSound) (hr : s.inRun = true) (d : Delivery) : (s.deliver d).KneelSound := by
  cases d with
  | odometer => exact h.of_changes s.odometerTrigger_changes
  | steer => exact h.of_changes s.steerTrigger_changes
  | joints => exact h.of_changes s.jointTrigger_changes
  | brake => exact h.kept s.brakeTrigger_kneelKept
  | level a => exact h.of_changes (s.levelTrigger_changes a)
  | kneelLevel => exact h.kneelReevaluate hr _
  | door d => exact h.doorTrigger d
  | kneel => exact h.kneelReevaluate hr _
  | traction => exact h.of_changes s.tractionNotice_changes
  | levelRequest => exact h.of_changes s.levelRequestNotice_changes
  | doorRequest d => exact h.doorRequest d
  | brakeEcho => exact h.of_changes s.recomputeHalt_changes
  | echo k => exact h.of_changes (s.echoArrival_changes k)
  | loss l => exact h.of_changes (s.takeLoss_changes false l)
  | sync => exact h.cycleMark _

theorem frameArrival (h : s.KneelSound) {p : Port} {f : Frame} {m : Matched} (ha : s.Accepts p f m) :
    (s.frameArrival p f).KneelSound := by
  obtain ⟨u, hu, ht⟩ := ha.arrived
  have run : u.inRun = true := (State.inRun_congr hu.tables).trans ha.matched.run
  have arrived : u.KneelSound := h.of_changes hu.changes
  rw [ht]
  exact (State.handOn_induction (P := fun t => t.KneelSound ∧ t.inRun = true)
    (fun _ _ ht => ⟨ht.1.kept (.of_eq rfl rfl rfl), ht.2⟩)
    (fun d _ ht => ⟨ht.1.deliver ht.2 d, State.deliver_inRun ht.2 d⟩) ⟨arrived, run⟩ _ _).1

/-! ## Resets and requests -/

/-- An in-band reset leaves the sequencer in RAISING, its deadline started in RUN (R135, R197). -/
theorem inBandReset (s : State) : s.inBandReset.KneelSound := by
  have run : s.inBandReset.inRun = s.inRun := by
    simp [State.inRun, State.inBandReset, TableStore.inBandReset]
  refine ⟨rfl, fun hr => ?_, fun hr => ⟨rfl, ?_⟩, nofun, fun hs => ?_⟩
  · rw [run] at hr
    simp [State.inBandReset, Kneel.reset, hr]
  · rw [run] at hr
    simp [State.inBandReset, Kneel.reset, hr]
  · simp [State.inBandReset, Kneel.reset] at hs

theorem takeRequest (h : s.KneelSound) {i : Instr} (hi : requestData i ≠ none) : (s.takeRequest i).KneelSound := by
  by_cases hr : s.resetsBy i
  · obtain ⟨⟨rest, rfl⟩, armed, still⟩ := hr
    show (s.resetGoRequest rest).KneelSound
    rw [s.resetGoRequest_of_armed rest armed still]
    simp only [State.resetAnswered]
    split
    · exact (inBandReset s).of_changes (State.offerSet_changes ‹_›)
    · exact h.of_changes s.responseRefused_changes
  · exact h.kept (s.takeRequest_kneelKept hi hr)

end State.KneelSound

/-! ## Every command -/

theorem exec_kneelSound {c : Instr} {s t : State} (hs : s.KneelSound) (h : exec c s = .next t) : t.KneelSound := by
  by_cases hi : requestData c = none
  · cases c with
    | powerOn straps => cases h; exact State.reset_kneelSound.kept (.of_eq rfl rfl rfl)
    | resetLine straps => cases h; exact State.reset_kneelSound.kept (.of_eq rfl rfl rfl)
    | busOff p =>
      cases h
      unfold State.busOff
      split
      · exact hs
      · exact hs.kept (.of_eq rfl rfl rfl)
    | recovery p =>
      cases h
      unfold State.recovery
      split
      · exact hs
      · exact hs.of_changes (s.setPort_changes p _)
    | transmitComplete p => cases h; exact hs.of_changes (s.setPort_changes p _)
    | frameArrival p f =>
      obtain rfl : s.frameArrival p f = t := Host.Outcome.next.inj h
      obtain request | ⟨m, ha⟩ | kept := s.frameArrival_outcomes p f
      · exact request ▸ hs.takeRequest (requestData_requestOfData f.data)
      · exact hs.frameArrival ha
      · exact hs.of_changes kept
    | watchExpiry i => cases h; exact hs.kept (s.watchExpiry_kneelKept i)
    | cycleTimerExpiry =>
      cases h
      exact State.cycleExpiry_induction (fun _ _ h => h.of_changes (State.setCycleTimer_changes _ _)) (hs.cycleMark false) hs
    | echoTimerExpiry k => cases h; exact hs.of_changes (s.echoExpiry_changes k)
    | activeSinceExpiry a => cases h; exact hs.of_changes (s.activeSinceExpiry_changes a)
    | kneelArmTimerExpiry => cases h; exact hs.kneelArmExpiry
    | kneelDeadlineExpiry => cases h; exact hs.kneelDeadlineExpiry
    | doorArmTimerExpiry d => cases h; exact hs.of_changes (s.doorArmExpiry_changes d)
    | lockProofExpiry d => cases h; exact hs.of_changes (s.lockProofExpiry_changes d)
    | releaseHoldExpiry d => cases h; exact hs.releaseHoldExpiry d
    | resetArmTimerExpiry => cases h; exact hs.of_changes s.disarm_changes
    | _ => cases hi
  · rw [exec_request hi] at h
    cases h
    exact hs.takeRequest hi

/-- Settles O47: the sequencer's own events fit its timers and the snapshot to its state, and nothing else touches them. -/
theorem kneelStaysSound : Obligations.KneelStaysSound := by
  intro s t hs h
  obtain rfl | ⟨c, n, rfl⟩ | ⟨c, rest, -, he⟩ := step_cases h
  · exact hs.kept s.tick_kneelKept
  · exact hs.kept (.of_eq rfl rfl rfl)
  · exact exec_kneelSound (s := { s with pending := rest }) (hs.kept (.of_eq rfl rfl rfl)) he

end Sys2Proof.Machine
end

section
/-! Every step keeps the echo records sound (R166 to R170). -/

namespace Sys2Proof.Machine

/-! ## One record -/

namespace EchoRecord.Sound

variable {r : EchoRecord}

theorem reset : EchoRecord.reset.Sound := ⟨Nat.zero_le _, Nat.zero_le _, fun _ => Nat.succ_pos _, fun _ => ⟨rfl, rfl⟩⟩

/-- An emission fills the value pair and leaves the counts and the state (R167). -/
theorem emitted (h : r.Sound) (v : Int) (t : Timer) :
    { r with previous := r.newest, newest := some v, timer := t }.Sound :=
  ⟨h.mismatch, h.agreement, h.agrees, nofun⟩

/-- A mismatch is counted up to 3, and in AGREE the third one enters DISAGREE: sound whatever the counts were before
(R168 to R170). -/
theorem missed (hn : r.newest ≠ none) (t : Timer) : (r.missed t).Sound where
  mismatch := min_le_right _ _
  agreement := Nat.zero_le _
  agrees hs := by
    have below : ¬3 ≤ r.mismatch + 1 := fun third => by
      cases ha : r.state with
      | agree => simp [EchoRecord.missed, ha, third] at hs
      | disagree => simp [EchoRecord.missed, ha] at hs
    show min (r.mismatch + 1) 3 < 3
    omega
  pair unsent := absurd unsent hn

/-- Without a mismatch either state is sound: a match counted up to 10, or the recovery (R168, R170). -/
theorem agreed (hn : r.newest ≠ none) {n : Nat} (h : n ≤ 10) (x : EchoState) (t : Timer) :
    { r with mismatch := 0, agreement := n, state := x, timer := t }.Sound :=
  ⟨Nat.zero_le _, h, fun _ => Nat.succ_pos _, fun h => absurd h hn⟩

/-- A running timer awaits an echo of a value that has been sent (R167, R169). -/
theorem newest_ne_none (h : r.Sound) (running : r.timer ≠ none) : r.newest ≠ none :=
  fun hn => running (h.pair hn).2

/-- The timer changes alone, an idle one staying idle. -/
theorem withTimer (h : r.Sound) {t : Timer} (ht : r.timer = none → t = none) : { r with timer := t }.Sound where
  mismatch := h.mismatch
  agreement := h.agreement
  agrees := h.agrees
  pair hn := by
    obtain ⟨previous, idle⟩ := h.pair hn
    exact ⟨previous, ht idle⟩

theorem tick (h : r.Sound) : { r with timer := Timer.tick r.timer }.Sound := h.withTimer fun idle => by rw [idle]; rfl

end EchoRecord.Sound

namespace State.echoesSound

variable {s t : State}

theorem congr (h : s.echoesSound) (he : t.echoes.records = s.echoes.records) : t.echoesSound := fun k => by
  rw [he]
  exact h k

theorem of_echoes (h : s.echoesSound) (he : t.echoes = s.echoes) : t.echoesSound := h.congr (congrArg Echoes.records he)

theorem of_changes {bs : List Block} (h : s.echoesSound) (c : State.ChangesOnly bs s t)
    (hb : Block.echoes ∉ bs := by decide) : t.echoesSound := h.of_echoes (c.get .echoes hb)

theorem of_reset (h : t.echoes.records = PerEcho.const .reset) : t.echoesSound := fun k => by
  rw [h, PerEcho.get_const]
  exact .reset

/-- One record put in place of another, the others as they stand. -/
theorem of_set (h : s.echoesSound) {k : EchoKind} {r : EchoRecord} (hr : r.Sound)
    (ht : t.echoes.records = s.echoes.records.set k r) : t.echoesSound := fun i => by
  rw [ht]
  by_cases hi : i = k
  · rw [hi, PerEcho.get_set_self]
    exact hr
  · rw [PerEcho.get_set_of_ne _ _ _ _ hi]
    exact h i

/-! ## The supervisor's own events (R167 to R169) -/

theorem echoEmission (h : s.echoesSound) (k : EchoKind) (v : Int) : (s.echoEmission k v).echoesSound := by
  cases he : s.echoSpec k with
  | none => simpa only [State.echoEmission, he] using h
  | some e =>
    rw [State.echoEmission_of_spec he]
    exact h.of_set ((h k).emitted v _) rfl

theorem echoArrival (h : s.echoesSound) (k : EchoKind) : (s.echoArrival k).echoesSound := by
  cases he : s.echoSpec k with
  | none => simpa only [State.echoArrival, he] using h
  | some e =>
    cases hn : (s.echoes.records.get k).newest with
    | none => simpa only [State.echoArrival, he, hn, if_true] using h
    | some v =>
      have sent : (s.echoes.records.get k).newest ≠ none := by rw [hn]; nofun
      rw [State.echoArrival_of_spec he hn]
      cases s.echoMatches k e (s.echoes.records.get k) with
      | false =>
        rw [State.settleEcho_mismatch]
        exact h.of_set (.missed sent _) rfl
      | true =>
        rw [State.settleEcho_match]
        refine h.of_set ?_ rfl
        split
        · exact .agreed sent (Nat.zero_le _) _ _
        · exact .agreed sent (min_le_right _ _) _ _

theorem echoExpiry (h : s.echoesSound) (k : EchoKind) : (s.echoExpiry k).echoesSound := by
  by_cases idle : (s.echoes.records.get k).timer = none
  · rwa [State.echoExpiry, if_pos idle]
  · cases he : s.echoSpec k with
    | none =>
      simp only [State.echoExpiry, if_neg idle, he]
      exact h.of_set ((h k).withTimer fun _ => rfl) rfl
    | some e =>
      rw [State.echoExpiry_of_spec idle he, State.settleEcho_mismatch]
      exact h.of_set (.missed ((h k).newest_ne_none idle) _) rfl

/-! ## The units that emit to an echoed kind (R81, R104) -/

theorem offerSteer (h : s.echoesSound) (c3 c4 : SteerCommand) : (s.offerSteer c3 c4).echoesSound := by
  rw [State.offerSteer_eq]
  split
  · exact ((h.echoEmission (.steer .a3) _).echoEmission (.steer .a4) _).congr rfl
  · exact h.congr rfl

theorem steerTrigger (h : s.echoesSound) : s.steerTrigger.echoesSound := by
  rw [State.steerTrigger_eq]
  exact (h.congr (t := s.settled) rfl).offerSteer _ _

theorem steerMark (h : s.echoesSound) : s.steerMark.echoesSound := by
  cases hp : s.present (slotJoint .j1) with
  | true => rwa [State.steerMark, if_pos hp]
  | false =>
    rw [State.steerMark_of_missing hp]
    exact (h.congr (t := (s.lockRear .a3).lockRear .a4) rfl).offerSteer _ _

theorem brakesEmitted (h : s.echoesSound) (p : PerAxle Nat) : (s.brakesEmitted p).echoesSound :=
  (((h.echoEmission (.brake .a1) _).echoEmission (.brake .a2) _).echoEmission (.brake .a3) _).echoEmission (.brake .a4) _

theorem computePressures (h : s.echoesSound) (demand : Nat) : (s.computePressures demand).echoesSound := by
  have settled := h.of_changes s.loadsSettled_changes
  rw [State.computePressures_eq]
  split
  · rename_i y _
    have ported : ({ s.loadsSettled with ports := s.ports.set .d y } : State).echoesSound := settled
    exact ported.brakesEmitted _
  · exact settled.of_changes (State.latchBrake_changes _ _)

theorem brakeTrigger (h : s.echoesSound) : s.brakeTrigger.echoesSound := by
  cases hd : s.readInt slotBrakeDemand with
  | none =>
    rw [State.brakeTrigger_of_none hd, State.computeStale]
    refine computePressures ?_ _
    split
    · exact h.congr rfl
    · exact h
  | some d =>
    rw [State.brakeTrigger_of_some hd]
    exact h.computePressures _

theorem brakeMark (h : s.echoesSound) : s.brakeMark.echoesSound := by
  rw [State.brakeMark_eq]
  split
  · exact h
  · exact h.brakeTrigger

/-! ## Marks -/

/-- An application of the FIT empties every record, and no other touches one (R166). -/
theorem storeMark (h : s.echoesSound) : s.storeMark.1.echoesSound := by
  cases hf : s.wouldApplyFit with
  | false => exact h.of_changes (State.storeMark_changes_of_noFit hf)
  | true =>
    simp only [State.wouldApplyFit, Bool.and_eq_true, decide_eq_true_eq] at hf
    obtain ⟨apply, fit⟩ := hf
    have emptied : s.preFit.fitCleared.echoesSound := of_reset (by rw [State.fitCleared_eq])
    have post : s.postFit.echoesSound := by
      rw [State.postFit, fit]
      exact emptied.of_changes (State.takeLosses_changes _ _ _)
    rw [(State.storeMark_finished apply).frame]
    exact post.congr rfl

theorem markAction (h : s.echoesSound) (a : MarkAction) : (s.markAction a).echoesSound := by
  cases a with
  | chassis => exact h.of_changes s.offerChassis_changes
  | steering => exact h.steerMark
  | joints => exact h.of_changes s.jointMark_changes
  | brakes => exact h.brakeMark
  | kneel b => exact h.of_changes (s.kneelMark_changes b)
  | followSync => exact h.of_changes s.followSync_changes

theorem cycleMark (h : s.echoesSound) (b : Bool) : (s.cycleMark b).echoesSound :=
  State.cycleMark_induction (fun _ _ h => h.congr rfl) (fun a _ h => h.markAction a) h.storeMark b

/-! ## Arrivals -/

theorem deliver (h : s.echoesSound) (d : Delivery) : (s.deliver d).echoesSound := by
  cases d with
  | odometer => exact h.of_changes s.odometerTrigger_changes
  | steer => exact h.steerTrigger
  | joints => exact h.of_changes s.jointTrigger_changes
  | brake => exact h.brakeTrigger
  | level a => exact h.of_changes (s.levelTrigger_changes a)
  | kneelLevel => exact h.of_changes s.kneelLevelTrigger_changes
  | door d => exact h.of_changes (s.doorTrigger_changes d)
  | kneel => exact h.of_changes s.kneelTrigger_changes
  | traction => exact h.of_changes s.tractionNotice_changes
  | levelRequest => exact h.of_changes s.levelRequestNotice_changes
  | doorRequest d => exact h.of_changes (s.doorRequest_changes d)
  | brakeEcho => exact h.of_changes s.recomputeHalt_changes
  | echo k => exact h.echoArrival k
  | loss l => exact h.of_changes (s.takeLoss_changes false l)
  | sync => exact h.cycleMark _

theorem frameArrival (h : s.echoesSound) {p : Port} {f : Frame} {m : Matched} (ha : s.Accepts p f m) :
    (s.frameArrival p f).echoesSound := by
  obtain ⟨u, hu, ht⟩ := ha.arrived
  rw [ht]
  exact State.handOn_induction (fun _ _ h => h.congr rfl) (fun d _ h => h.deliver d) (h.of_changes hu.changes) _ _

/-! ## Requests, watches and the clock -/

/-- A STATUS with the clear option takes fault members alone, and the in-band reset empties every record (R166, R171). -/
theorem takeRequest (h : s.echoesSound) {i : Instr} (hi : requestData i ≠ none) : (s.takeRequest i).echoesSound := by
  by_cases hr : s.resetsBy i
  · obtain ⟨⟨rest, rfl⟩, armed, still⟩ := hr
    show (s.resetGoRequest rest).echoesSound
    rw [s.resetGoRequest_of_armed rest armed still, State.resetAnswered]
    have emptied : s.inBandReset.echoesSound := of_reset rfl
    split
    · exact emptied.of_changes (State.offerSet_changes ‹_›)
    · exact h.of_changes s.responseRefused_changes
  · by_cases hs : ∃ rest, i = .status rest
    · obtain ⟨rest, rfl⟩ := hs
      show (s.statusRequest rest).echoesSound
      obtain kept | ⟨u, hu, ht⟩ := s.statusRequest_cases rest
      · exact h.of_changes kept
      · rw [ht]
        exact (h.of_changes hu).congr rfl
    · exact h.of_changes (s.takeRequest_changes hi hr fun rest e => hs ⟨rest, e⟩)

theorem watchExpiry (h : s.echoesSound) (i : Fin 96) : (s.watchExpiry i).echoesSound := by
  by_cases hw : s.path.entries[i].watch = none
  · rwa [State.watchExpiry_of_idle hw]
  · have silenced : (s.unwatched i).echoesSound := h.congr (by rw [State.unwatched_eq])
    exact silenced.of_changes (State.watchExpiry_changes hw)

theorem tick (h : s.echoesSound) : s.tick.echoesSound := fun k => by
  simp only [State.tick, PerEcho.get_ofFn]
  exact (h k).tick

end State.echoesSound

/-! ## Every command -/

theorem exec_echoesSound {c : Instr} {s t : State} (hs : s.echoesSound) (h : exec c s = .next t) : t.echoesSound := by
  by_cases hi : requestData c = none
  · cases c with
    | powerOn straps => cases h; exact State.reset_echoesSound.congr rfl
    | resetLine straps => cases h; exact State.reset_echoesSound.congr rfl
    | busOff p => cases h; exact hs.congr (by unfold State.busOff; split <;> rfl)
    | recovery p => cases h; exact hs.congr (by unfold State.recovery; split <;> rfl)
    | transmitComplete p => cases h; exact hs.of_changes (s.setPort_changes p _)
    | frameArrival p f =>
      obtain rfl : s.frameArrival p f = t := Host.Outcome.next.inj h
      obtain request | ⟨m, ha⟩ | kept := s.frameArrival_outcomes p f
      · exact request ▸ hs.takeRequest (requestData_requestOfData f.data)
      · exact hs.frameArrival ha
      · exact hs.of_changes kept
    | watchExpiry i => cases h; exact hs.watchExpiry i
    | cycleTimerExpiry =>
      cases h
      exact State.cycleExpiry_induction (fun _ _ h => h.congr rfl) (hs.cycleMark false) hs
    | echoTimerExpiry k => cases h; exact hs.echoExpiry k
    | activeSinceExpiry a => cases h; exact hs.of_changes (s.activeSinceExpiry_changes a)
    | kneelArmTimerExpiry => cases h; exact hs.of_changes s.kneelArmExpiry_changes
    | kneelDeadlineExpiry => cases h; exact hs.of_changes s.kneelDeadlineExpiry_changes
    | doorArmTimerExpiry d => cases h; exact hs.of_changes (s.doorArmExpiry_changes d)
    | lockProofExpiry d => cases h; exact hs.of_changes (s.lockProofExpiry_changes d)
    | releaseHoldExpiry d => cases h; exact hs.of_changes (s.releaseHoldExpiry_changes d)
    | resetArmTimerExpiry => cases h; exact hs.of_changes s.disarm_changes
    | _ => cases hi
  · rw [exec_request hi] at h
    cases h
    exact hs.takeRequest hi

/-- Settles O52: the records change at emissions, echo arrivals, timer expiries, applications of the FIT and resets alone,
and each of these keeps them sound. -/
theorem echoesStaySound : Obligations.EchoesStaySound := by
  intro s t hs h
  obtain rfl | ⟨c, n, rfl⟩ | ⟨c, rest, -, he⟩ := step_cases h
  · exact hs.tick
  · exact hs.congr rfl
  · exact exec_echoesSound (s := { s with pending := rest }) (hs.congr rfl) he

end Sys2Proof.Machine
end

section
/-! Staged copies table by table, and that every step keeps the table store sound (R175 to R184). -/

namespace Sys2Proof.Machine

/-! ## Staged copies, one table at a time -/

/-- Two sets of staged copies hold the same copy of a table. -/
def StagedTables.AgreeAt (st st' : StagedTables) : TableName → Prop
  | .fit => st'.fit = st.fit
  | .schedule => st'.schedule = st.schedule
  | .axle => st'.axle = st.axle
  | .corner => st'.corner = st.corner
  | .door => st'.door = st.door
  | .guard => st'.guard = st.guard
  | .constants => st'.constants = st.constants

theorem StagedTables.AgreeAt.refl (st : StagedTables) (n : TableName) : st.AgreeAt st n := by
  cases n <;> rfl

theorem StagedTables.AgreeAt.trans {st st' st'' : StagedTables} {n : TableName} (h : st.AgreeAt st' n)
    (h' : st'.AgreeAt st'' n) : st.AgreeAt st'' n := by
  cases n <;> exact Eq.trans h' h

/-- The images of a table are those of its own copy. -/
theorem StagedTables.AgreeAt.stagedImage {st st' : StagedTables} {n : TableName} (h : st.AgreeAt st' n) (i : Nat) :
    stagedImage st' n i = stagedImage st n i := by
  cases n <;> simp only [StagedTables.AgreeAt] at h <;> simp only [Machine.stagedImage, h]

theorem StagedTables.AgreeAt.entryCheck {st st' : StagedTables} {n : TableName} (h : st.AgreeAt st' n) (i : Nat) :
    entryCheck st' n i = entryCheck st n i := by
  have unused : (n = .fit ∧ vget st'.fit i none = none) ↔ (n = .fit ∧ vget st.fit i none = none) :=
    and_congr_right fun hn => by
      subst hn
      have fit : st'.fit = st.fit := h
      rw [fit]
  simp only [Machine.entryCheck, unused, h.stagedImage]

/-- The sum of a table is that of its own copy (R175). -/
theorem StagedTables.AgreeAt.entrySum {st st' : StagedTables} {n : TableName} (h : st.AgreeAt st' n) :
    entrySum st' n = entrySum st n := by
  have sums : ∀ k, sumChecks st' n k = sumChecks st n k := by
    intro k
    induction k with
    | zero => rfl
    | succ k ih => simp only [sumChecks, ih, h.entryCheck]
  simp only [Machine.entrySum, sums]

/-- A write changes the copy of its own table alone (R173). -/
theorem writeImage_agreeAt {node : BitVec 3} {st st' : StagedTables} {n m : TableName} {i k : Nat} {bs : List Byte}
    (h : writeImage node st n i bs = some (st', k)) (hm : m ≠ n) : st.AgreeAt st' m := by
  cases n with
  | fit | door | guard =>
    obtain ⟨r, -, h⟩ := Option.map_eq_some_iff.mp h
    cases h
    cases m <;> first | rfl | exact absurd rfl hm
  | schedule | axle | constants =>
    simp only [writeImage] at h
    split at h
    · cases h
      cases m <;> first | rfl | exact absurd rfl hm
    · cases h
  | corner =>
    simp only [writeImage] at h
    split at h
    · obtain ⟨r, -, h⟩ := Option.map_eq_some_iff.mp h
      cases h
      cases m <;> first | rfl | exact absurd rfl hm
    · cases h

/-- Writes in turn to one table leave the others (R192). -/
theorem writeImages_agreeAt {node : BitVec 3} {n m : TableName} (hm : m ≠ n) {xs : List (Nat × List Byte)}
    {st st' : StagedTables} {k : Nat} (h : writeImages node n xs st = some (st', k)) : st.AgreeAt st' m := by
  induction xs generalizing st k with
  | nil =>
    cases h
    exact .refl _ m
  | cons x xs ih =>
    simp only [writeImages] at h
    split at h
    · cases h
    · rename_i first
      split at h
      · cases h
      · rename_i rest
        cases h
        exact (writeImage_agreeAt first hm).trans (ih rest)

/-- Restoring the copy of one table leaves the others (R182). -/
theorem restoreTable_agreeAt (st : StagedTables) (act : ActiveTables) {n m : TableName} (hm : m ≠ n) :
    st.AgreeAt (restoreTable st act n) m := by
  cases n <;> cases m <;> first | rfl | exact absurd rfl hm

/-- An application takes from the staged copies only those of its set (R180). -/
theorem copyTables_congr {st st' : StagedTables} {act : ActiveTables} {set : PerTable Bool}
    (h : ∀ n, set.get n = true → st.AgreeAt st' n) : copyTables st' act set = copyTables st act set := by
  have taken : ∀ {α : Type} {b : Bool} {x x' : α} (y : Option α), (b = true → x' = x) →
      (if b = true then some x' else y) = if b = true then some x else y := by
    intro α b x x' y hb
    cases b with
    | false => rfl
    | true => rw [hb rfl]
  simp only [copyTables, ActiveTables.mk.injEq]
  exact ⟨taken _ fun hb => congrArg (fun v => sortEntries (usedEntries v)) (h .fit hb), taken _ (h .schedule),
    taken _ (h .axle), taken _ (h .corner), taken _ (h .door), taken _ (h .guard), taken _ (h .constants)⟩

/-- An empty set makes nothing active. -/
theorem copyTables_const_false (st : StagedTables) (act : ActiveTables) :
    copyTables st act (PerTable.const false) = act := rfl

/-! ## The store's operations keep it sound -/

/-- An emptied pending set leaves a sound store sound. -/
theorem TableStore.Sound.emptied {ts us : TableStore} (h : ts.Sound) (staged : us.staged = ts.staged)
    (active : us.active = ts.active) (sums : us.sums = ts.sums) (run : us.partState = ts.partState)
    (waiting : us.waiting = PerTable.const false) : us.Sound where
  sums n := by rw [sums, staged, h.sums]
  active := active ▸ h.active
  prospect := by
    rw [TableStore.prospect, waiting, copyTables_const_false, active]
    exact h.active
  run := by rw [run, active, h.run]

theorem TableStore.cancel_waiting (ts : TableStore) (n : TableName) : ts.cancel.waiting.get n = false := by
  obtain ⟨none, h⟩ | ⟨-, h⟩ := ts.cancel_eq
  · rw [h, none]
  · rw [h, PerTable.get_const]

theorem TableStore.Sound.cancel {ts : TableStore} (h : ts.Sound) : ts.cancel.Sound := by
  obtain ⟨-, he⟩ | ⟨-, he⟩ := ts.cancel_eq
  · rwa [he]
  · rw [he]
    exact h.emptied rfl rfl rfl rfl rfl

theorem TableStore.Sound.setHold {ts : TableStore} (h : ts.Sound) (b : Bool) : ({ ts with hold := b } : TableStore).Sound :=
  ⟨h.sums, h.active, h.prospect, h.run⟩

/-- A staged copy may change while its table is not pending (R178). -/
theorem TableStore.Sound.stage {ts : TableStore} (h : ts.Sound) {st : StagedTables} {n : TableName}
    (free : ts.waiting.get n = false) (others : ∀ m, m ≠ n → ts.staged.AgreeAt st m) : (ts.stage st n).Sound where
  sums m := by
    by_cases hm : m = n
    · subst hm
      exact PerTable.get_set_self _ _ _
    · exact (PerTable.get_set_of_ne _ _ _ _ hm).trans ((h.sums m).trans (others m hm).entrySum.symm)
  active := h.active
  prospect := by
    have kept : (ts.stage st n).prospect = ts.prospect := copyTables_congr fun m hm => others m fun e => by
      have pending : ts.waiting.get n = true := e ▸ hm
      rw [free] at pending
      cases pending
    exact kept ▸ h.prospect
  run := h.run

/-- A DISCARD cancels, and then restores copies of tables that are no longer pending (R182). -/
theorem TableStore.Sound.discard {ts : TableStore} (h : ts.Sound) (mask : PerTable Bool) : (ts.discard mask).Sound := by
  have fold : ∀ (ns : List TableName) (us : TableStore), us.Sound → (∀ n, us.waiting.get n = false) →
      (ns.foldl (fun us n => us.stage (restoreTable us.staged us.active n) n) us).Sound := by
    intro ns
    induction ns with
    | nil => exact fun us hs _ => hs
    | cons n ns ih =>
      exact fun us hs hw => ih _ (hs.stage (hw n) fun m hm => restoreTable_agreeAt _ _ hm) hw
  exact fold _ _ h.cancel ts.cancel_waiting

/-- A commit passes the checks of its own table (R177). -/
theorem crossCheck_eq_none {n : TableName} {c : ActiveTables} :
    crossCheck n c = none ↔ (n = .axle ∨ n = .constants → geometryHolds c = true)
      ∧ (n = .fit → noDuplicate (c.fit.getD []) = true) ∧ (n = .fit ∨ n = .door → complete c = true) := by
  unfold crossCheck
  split
  · rename_i failed
    exact iff_of_false nofun fun ⟨passed, _, _⟩ => by simp [passed failed.1] at failed
  · rename_i geometry
    split
    · rename_i failed
      exact iff_of_false nofun fun ⟨_, passed, _⟩ => by simp [passed failed.1] at failed
    · rename_i duplicate
      split
      · rename_i failed
        exact iff_of_false nofun fun ⟨_, _, passed⟩ => by simp [passed failed.1] at failed
      · rename_i incomplete
        exact iff_of_true rfl ⟨by simpa using geometry, by simpa using duplicate, by simpa using incomplete⟩

/-- A commit that passes the checks of its own table passes them all: the others read no copy that it replaces (R177). -/
theorem TableStore.Sound.join {ts : TableStore} (h : ts.Sound) {n : TableName}
    (passed : crossCheck n (ts.combination n) = none) : (ts.join n).Sound where
  sums := h.sums
  active := h.active
  prospect := by
    obtain ⟨geometry, duplicate, complete⟩ := crossCheck_eq_none.mp passed
    cases n with
    | fit => exact ⟨h.prospect.geometry, duplicate rfl, complete (.inl rfl)⟩
    | axle => exact ⟨geometry (.inl rfl), h.prospect.duplicate, h.prospect.complete⟩
    | constants => exact ⟨geometry (.inr rfl), h.prospect.duplicate, h.prospect.complete⟩
    | door => exact ⟨h.prospect.geometry, h.prospect.duplicate, complete (.inr rfl)⟩
    | schedule | corner | guard => exact ⟨h.prospect.geometry, h.prospect.duplicate, h.prospect.complete⟩
  run := h.run

/-- No application makes a table ABSENT (R180). -/
theorem copyTables_full {st : StagedTables} {act : ActiveTables} (h : act.full = true) (set : PerTable Bool) :
    (copyTables st act set).full = true := by
  have taken : ∀ {α : Type} (b : Bool) (x : α) {y : Option α}, y.isSome = true → (if b then some x else y).isSome = true := by
    intro α b x y hy
    cases b <;> simp [hy]
  simp only [ActiveTables.full, Bool.and_eq_true] at h ⊢
  obtain ⟨⟨⟨⟨⟨⟨fit, schedule⟩, axle⟩, corner⟩, door⟩, guard⟩, constants⟩ := h
  exact ⟨⟨⟨⟨⟨⟨taken _ _ fit, taken _ _ schedule⟩, taken _ _ axle⟩, taken _ _ corner⟩, taken _ _ door⟩, taken _ _ guard⟩,
    taken _ _ constants⟩

/-- An application makes active what was judged at the commits (R180, R183). -/
theorem TableStore.Sound.apply {ts : TableStore} (h : ts.Sound) : ts.apply.Sound where
  sums := h.sums
  active := h.prospect
  prospect := h.prospect
  run := by
    show (if ts.prospect.full = true then PartState.run else ts.partState) = .run ↔ ts.prospect.full = true
    by_cases full : ts.prospect.full = true
    · simp [full]
    · have configuring : ts.partState ≠ .run := fun hr => full (copyTables_full (h.run.mp hr) _)
      simp [full, configuring]

/-- A mark leaves, refuses or applies the pending set (R179, R180). -/
theorem TableStore.Sound.mark {ts : TableStore} (h : ts.Sound) (still : Bool) : (ts.mark still).Sound := by
  unfold TableStore.mark
  split
  · exact h
  · exact h.emptied rfl rfl rfl rfl rfl
  · exact h.apply

/-! ## Requests -/

/-- What holds of the store before a request and of each store that its effect makes of that one holds after it. -/
theorem State.respond_tables {P : TableStore → Prop} {s : State} {code tag : Byte} {r : Reply} {effect : State → State}
    (h : P s.tables) (he : ∀ u : State, u.tables = s.tables → P (effect u).tables) :
    P (s.respond code tag r effect).tables := by
  obtain ⟨q, -, hq⟩ | ⟨-, hq⟩ := s.respond_cases code tag r effect
  · rw [hq]
    exact he _ rfl
  · rwa [hq]

theorem State.deny_tables (s : State) (code tag : Byte) (e : Status) : (s.deny code tag e).tables = s.tables :=
  State.respond_tables (P := (· = s.tables)) rfl fun _ h => h

theorem TableStore.Sound.deny {s : State} (h : s.tables.Sound) (code tag : Byte) (e : Status) :
    (s.deny code tag e).tables.Sound := by
  rwa [State.deny_tables]

theorem TableStore.Sound.answer {s : State} (h : s.tables.Sound) {code tag : Byte} {r : Reply} {effect : State → State}
    (he : ∀ u : State, u.tables = s.tables → (effect u).tables.Sound) : (s.answer code tag r effect).tables.Sound :=
  State.respond_tables h he

theorem TableStore.Sound.writeRequest {s : State} (h : s.tables.Sound) (rest : List Byte) :
    (s.writeRequest rest).tables.Sound := by
  unfold State.writeRequest
  split
  · exact h.deny _ _ _
  · rename_i a _
    split
    · exact h.deny _ _ _
    · rename_i free
      split
      · exact h.deny _ _ _
      · rename_i written
        refine h.answer fun u hu => ?_
        show (u.tables.stage _ _).Sound
        exact hu ▸ h.stage (by simpa using free) fun m hm => writeImages_agreeAt hm written

theorem TableStore.Sound.swapRequest {s : State} (h : s.tables.Sound) (rest : List Byte) :
    (s.swapRequest rest).tables.Sound := by
  unfold State.swapRequest
  split
  · exact h.deny _ _ _
  · split
    · exact h.deny _ _ _
    · rename_i free
      split
      · exact h.deny _ _ _
      · rename_i written
        simp only
        split
        · exact h.answer fun u hu => hu ▸ h
        · refine h.answer fun u hu => ?_
          show (u.tables.stage _ _).Sound
          exact hu ▸ h.stage (by simpa using free) fun m hm => writeImage_agreeAt written hm

/-- The cross-checks have no success among their answers. -/
theorem crossCheck_ne_accepted (n : TableName) (c : ActiveTables) : crossCheck n c ≠ some .accepted := by
  unfold crossCheck
  repeat' split
  all_goals nofun

/-- What an accepted commit has passed (R176). -/
theorem TableStore.commitStatus_eq_accepted {ts : TableStore} {n : TableName} {sum : Nat}
    (h : ts.commitStatus n sum = .accepted) : crossCheck n (ts.combination n) = none := by
  unfold TableStore.commitStatus at h
  split at h
  · cases h
  · split at h
    · cases h
    · split at h
      · rename_i failed
        exact absurd (h ▸ failed) (crossCheck_ne_accepted _ _)
      · assumption

theorem TableStore.Sound.commitRequest {s : State} (h : s.tables.Sound) (rest : List Byte) :
    (s.commitRequest rest).tables.Sound := by
  unfold State.commitRequest
  split
  · exact h.deny _ _ _
  · refine h.answer fun u hu => ?_
    split
    · rename_i accepted
      exact hu ▸ h.join (TableStore.commitStatus_eq_accepted accepted)
    · exact hu ▸ h

theorem TableStore.Sound.discardRequest {s : State} (h : s.tables.Sound) (rest : List Byte) :
    (s.discardRequest rest).tables.Sound := by
  unfold State.discardRequest
  split
  · exact h.deny _ _ _
  · exact h.answer fun u hu => hu ▸ h.discard _

theorem State.inBandReset_tables (s : State) : s.inBandReset.tables = { s.tables.cancel with hold := false } := rfl

/-- A request keeps the store sound: WRITE and SWAP change copies of tables that are not pending, a COMMIT that is accepted
has passed its checks, and DISCARD and the in-band reset empty the pending set (R176, R178, R182, R184). -/
theorem TableStore.Sound.takeRequest {s : State} (h : s.tables.Sound) {i : Instr} (hi : requestData i ≠ none) :
    (s.takeRequest i).tables.Sound := by
  have kept : ∀ {code tag : Byte} {r : Reply} {effect : State → State}, (∀ u, (effect u).tables = u.tables) →
      (s.respond code tag r effect).tables.Sound :=
    fun he => State.respond_tables h fun u hu => (he u).trans hu ▸ h
  cases i with
  | ident rest =>
    simp only [State.takeRequest, State.identRequest]
    split
    · exact h.deny _ _ _
    · split
      · exact kept fun u => rfl
      · exact h.deny _ _ _
  | status rest =>
    simp only [State.takeRequest, State.statusRequest]
    split
    · exact h.deny _ _ _
    · rename_i clear _
      exact kept fun u => by cases clear <;> rfl
  | read rest =>
    simp only [State.takeRequest, State.readRequest]
    split
    · exact h.deny _ _ _
    · split
      · exact h.deny _ _ _
      · exact kept fun u => rfl
  | write rest => exact h.writeRequest rest
  | swap rest => exact h.swapRequest rest
  | commit rest => exact h.commitRequest rest
  | hold rest => exact h.answer fun u hu => (hu.symm ▸ h : u.tables.Sound).setHold true
  | release rest => exact h.answer fun u hu => (hu.symm ▸ h : u.tables.Sound).setHold false
  | discard rest => exact h.discardRequest rest
  | events rest =>
    simp only [State.takeRequest, State.eventsRequest]
    split
    · exact h.deny _ _ _
    · rename_i clear _
      exact kept fun u => by cases clear <;> rfl
  | resetArm rest => exact kept fun u => rfl
  | resetGo rest =>
    simp only [State.takeRequest, State.resetGoRequest]
    split
    · exact kept fun u => rfl
    · split
      · exact kept fun u => rfl
      · obtain ⟨reset, -⟩ | refused := s.resetAnswered_keeps rest
        · rw [reset, State.inBandReset_tables]
          exact h.cancel.setHold false
        · rw [refused]
          exact h
  | badRequest data => exact h.deny _ _ _
  | _ => exact absurd rfl hi

/-! ## Every command -/

/-- Beside the resets and the requests, only the two kinds of cycle mark reach the store (R180). -/
theorem exec_tablesSound {c : Instr} {s t : State} (hs : s.tables.Sound) (h : exec c s = .next t) : t.tables.Sound := by
  obtain ⟨straps, -, rfl⟩ | ⟨i, hi, rfl⟩ | ⟨p, f, m, -, rfl, ha, hm⟩ | ⟨i, rfl⟩ | ⟨-, rfl⟩ | ⟨-, hk⟩ := exec_cases h
  · exact State.reset_tablesSound
  · exact hs.takeRequest hi
  · rw [ha.sync_tables hm]
    exact hs.mark _
  · rwa [State.watchExpiry_tables]
  · obtain hk | hk := s.cycleExpiry_tables
    · rwa [hk]
    · rw [hk]
      exact hs.mark _
  · rwa [hk]

/-- Settles O25: a command keeps the store sound, and the clock does not touch it. -/
theorem tablesStaySound : Obligations.TablesStaySound := by
  intro s t hs h
  obtain rfl | ⟨c, n, rfl⟩ | ⟨c, rest, -, he⟩ := step_cases h
  · exact hs
  · exact hs
  · exact exec_tablesSound (s := { s with pending := rest }) hs he

end Sys2Proof.Machine
end

section
/-! The fields of entry images, and that whatever image is written, the entry left is legal (R173, R174). -/

namespace Sys2Proof.Machine

/-! ## Coercion -/

theorem clampNat_bounds {lo hi : Nat} (h : lo ≤ hi) (x : Nat) : lo ≤ clampNat lo hi x ∧ clampNat lo hi x ≤ hi := by
  unfold clampNat
  split
  · omega
  · split <;> omega

theorem clampInt_bounds {lo hi : Int} (h : lo ≤ hi) (x : Int) : lo ≤ clampInt lo hi x ∧ clampInt lo hi x ≤ hi := by
  unfold clampInt
  split
  · omega
  · split <;> omega

/-- A value is coerced into its range (R173). -/
theorem coerceNat_bounds {r : Nat × Nat} (h : r.1 ≤ r.2) (x : Nat) : r.1 ≤ (coerceNat r x).1 ∧ (coerceNat r x).1 ≤ r.2 :=
  clampNat_bounds h x

theorem coerceInt_bounds {r : Int × Int} (h : r.1 ≤ r.2) (x : Int) : r.1 ≤ (coerceInt r x).1 ∧ (coerceInt r x).1 ≤ r.2 :=
  clampInt_bounds h x

/-- A legal value stands as written, and is not counted (R173). -/
theorem coerceNat_of_mem {r : Nat × Nat} {x : Nat} (hl : r.1 ≤ x) (hr : x ≤ r.2) : coerceNat r x = (x, false) := by
  have stands : clampNat r.1 r.2 x = x := by
    unfold clampNat
    rw [if_neg (by omega), if_neg (by omega)]
  simp [coerceNat, stands]

theorem coerceInt_of_mem {r : Int × Int} {x : Int} (hl : r.1 ≤ x) (hr : x ≤ r.2) : coerceInt r x = (x, false) := by
  have stands : clampInt r.1 r.2 x = x := by
    unfold clampInt
    rw [if_neg (by omega), if_neg (by omega)]
  simp [coerceInt, stands]

@[simp] theorem countIf_false : countIf false = 0 := rfl

theorem scheduleRange_le (i : Fin 8) : (scheduleRange i).1 ≤ (scheduleRange i).2 := by
  revert i
  decide

theorem pathRange_le (i : Fin 4) : (pathRange i).1 ≤ (pathRange i).2 := by
  revert i
  decide

theorem rateRange_le (i : Fin 4) : (rateRange i).1 ≤ (rateRange i).2 := by
  revert i
  decide

theorem paramRanges_le (i : Fin 32) : paramRanges[i].1 ≤ paramRanges[i].2 := by
  revert i
  decide

/-! ## The parts of a FIT entry -/

theorem fieldLegal_iff {lo start width : Nat} :
    fieldLegal lo start width = true ↔ lo ≤ width ∧ width ≤ 32 ∧ start + width ≤ 512 :=
  decide_eq_true_iff

/-- A rewrite that is read has its field in place (R174). -/
theorem rewriteOf_legal {code field : Nat} {r : Rewrite} {cls : ArrivalClass} (h : rewriteOf code field = some r)
    (hc : r ≠ .noRewrite → cls = .command) : r.Legal cls := by
  simp only [rewriteOf] at h
  split at h
  · cases h
  · split at h
    · split at h <;> cases h
      trivial
    · split at h <;> cases h
      rename_i placed
      exact ⟨hc nofun, fieldLegal_iff.mp placed⟩
    · split at h <;> cases h
      rename_i placed
      exact ⟨hc nofun, fieldLegal_iff.mp placed⟩
    · cases h

theorem counterOf_le {present : Bool} {start : Nat} {c : Option Nat} (h : counterOf present start = some c) :
    ∀ x, c = some x → x ≤ 508 := by
  rintro x rfl
  unfold counterOf at h
  split at h
  · split at h <;> cases h
    assumption
  · split at h <;> cases h

/-- A coerced watch period is a multiple of 5 up to 2,550, and runs on a SYNC entry (R173). -/
theorem coerceWatch_legal (sync : Bool) (w : Nat) :
    coerceWatch sync w ≤ 2550 ∧ coerceWatch sync w % 5 = 0 ∧ (sync = true → coerceWatch sync w ≠ 0) := by
  unfold coerceWatch
  split
  · cases sync <;> simp
  · split
    · simp
    · exact ⟨by omega, by omega, fun _ => by omega⟩

theorem coerceWatch_of_legal {sync : Bool} {w : Nat} (hw : w ≤ 2550) (hm : w % 5 = 0) (hs : sync = true → w ≠ 0) :
    coerceWatch sync w = w := by
  unfold coerceWatch
  split
  · rename_i zero
    cases sync with
    | false => exact zero.symm
    | true => exact absurd zero (hs rfl)
  · split <;> omega

theorem extractorOf_legal {bs : List Byte} {e : Extractor} (h : extractorOf bs = some e) :
    1 ≤ e.width ∧ e.width ≤ 32 ∧ e.start + e.width ≤ 512 := by
  simp only [extractorOf] at h
  split at h
  · cases h
  · split at h <;> cases h
    rename_i placed
    exact fieldLegal_iff.mp placed

/-- Extractors are read as many as asked for, each with its field in place (R174). -/
theorem extractorsOf_legal {n : Nat} {bs : List Byte} {es : List Extractor} (h : extractorsOf n bs = some es) :
    es.length = n ∧ ∀ e ∈ es, 1 ≤ e.width ∧ e.width ≤ 32 ∧ e.start + e.width ≤ 512 := by
  induction n generalizing bs es with
  | zero =>
    cases h
    simp
  | succ n ih =>
    simp only [extractorsOf] at h
    split at h
    · rename_i e es' first rest
      cases h
      obtain ⟨length, legal⟩ := ih rest
      exact ⟨congrArg Nat.succ length, List.forall_mem_cons.mpr ⟨extractorOf_legal first, legal⟩⟩
    · cases h

/-- The role of an entry that arrivals match is legal, of the class that its image names (R174). -/
theorem arrivalRoleOf_legal {port : Port} {cls : ArrivalClass} {bs : List Byte} {role : FitRole}
    (h : arrivalRoleOf port cls bs = some role) :
    role.Legal ∧ role.isSync = decide (cls = .sync) ∧ role.isEmit = false := by
  simp only [arrivalRoleOf] at h
  split at h
  · rename_i rewrite trigger extractors hr _ he
    split at h <;> cases h
    rename_i checks
    obtain ⟨count, -, sync, command⟩ := checks
    obtain ⟨length, legal⟩ := extractorsOf_legal he
    exact ⟨⟨sync, rewriteOf_legal hr command, length ▸ count, legal⟩, rfl, rfl⟩
  · cases h

theorem echoOf_legal {bs : List Byte} {e : EchoSpec} {n : Nat} (h : echoOf bs = some (e, n)) :
    e.tolerance ≤ 1000 ∧ 10 ≤ e.deadline ∧ e.deadline ≤ 2550 := by
  simp only [echoOf] at h
  split at h
  · cases h
  · cases h
    exact ⟨(coerceNat_bounds (r := (0, 1000)) (by decide) _).2, coerceNat_bounds (r := (10, 2550)) (by decide) _⟩

/-- The role of an EMIT entry is legal (R174). -/
theorem emitRoleOf_legal {hasEcho : Bool} {bs : List Byte} {role : FitRole} {n : Nat}
    (h : emitRoleOf hasEcho bs = some (role, n)) : role.Legal ∧ role.isSync = false := by
  simp only [emitRoleOf] at h
  split at h
  · cases h
  · split at h
    · cases h
    · split at h
      · split at h
        · cases h
        · rename_i echoed
          split at h <;> cases h
          rename_i checks
          refine ⟨?_, rfl⟩
          intro e he
          cases he
          exact ⟨checks.1, echoOf_legal echoed⟩
      · split at h <;> cases h
        exact ⟨nofun, rfl⟩

/-! ## Entries as a write leaves them -/

/-- A FIT image that is read gives a legal entry (R173, R174). -/
theorem fitOf_legal {node : BitVec 3} {bs : List Byte} {e : FitEntry} {n : Nat} (h : fitOf node bs = some (some e, n)) :
    e.Legal node := by
  simp only [fitOf] at h
  split at h
  · split at h <;> cases h
  · split at h
    · cases h
    · split at h
      · cases h
      · rename_i counted
        split at h
        · split at h
          · cases h
          · rename_i emits
            split at h <;> cases h
            rename_i checks
            obtain ⟨legal, sync⟩ := emitRoleOf_legal emits
            obtain ⟨watch, step, -⟩ := coerceWatch_legal false (u16 bs 8)
            exact ⟨watch, step, fun hs => absurd (sync.symm.trans hs) Bool.false_ne_true, counterOf_le counted, legal,
              fun _ => checks.2⟩
        · split at h
          · cases h
          · rename_i cls _
            split at h
            · cases h
            · rename_i arrives
              split at h <;> cases h
              obtain ⟨legal, sync, emit⟩ := arrivalRoleOf_legal arrives
              obtain ⟨watch, step, running⟩ := coerceWatch_legal (decide (cls = .sync)) (u16 bs 8)
              exact ⟨watch, step, fun hs => running (sync.symm.trans hs), counterOf_le counted, legal,
                fun hm => absurd (emit.symm.trans hm) Bool.false_ne_true⟩

theorem scheduleOf_legal (i : Fin 8) (bs : List Byte) : (scheduleOf i bs).1.Legal i := by
  have bounds := coerceNat_bounds (scheduleRange_le i)
  rintro ⟨j, hj⟩
  interval_cases j <;> exact bounds _

theorem axleOf_legal (i : Fin 4) (bs : List Byte) : (axleOf i bs).1.Legal i := by
  obtain ⟨hbg, hbg'⟩ := coerceNat_bounds (r := (1, 255)) (by decide) (u8 bs 6)
  obtain ⟨hpath, hpath'⟩ := coerceNat_bounds (pathRange_le i) (u16 bs 9)
  exact ⟨(coerceNat_bounds (r := (0, 4000)) (by decide) _).2, (coerceNat_bounds (r := (0, 1024)) (by decide) _).2,
    (coerceNat_bounds (r := (0, 4000)) (by decide) _).2, hbg, hbg', (coerceNat_bounds (r := (0, 1000)) (by decide) _).2,
    hpath, hpath', coerceNat_bounds (rateRange_le i) _⟩

theorem coerceWindow_legal (n : Nat) : coerceWindow n = 1 ∨ coerceWindow n = 4 ∨ coerceWindow n = 16 := by
  unfold coerceWindow
  split
  · simp
  · split <;> simp

/-- MIN and MAX are coerced first, and then the targets between them (11.2). -/
theorem cornerOf_legal {i : Fin 8} {bs : List Byte} {c : CornerParams} {n : Nat} (h : cornerOf i bs = some (c, n)) :
    c.Legal i := by
  simp only [cornerOf] at h
  split at h <;> cases h
  obtain ⟨hmin, hmin'⟩ := coerceInt_bounds (r := (-250, 250)) (by decide) (s16 bs 7)
  obtain ⟨hmax, hmax'⟩ := coerceInt_bounds (r := ((coerceInt (-250, 250) (s16 bs 7)).1, 250)) hmin' (s16 bs 9)
  have target := coerceInt_bounds (r := (_, _)) hmax
  obtain ⟨htb, htb'⟩ := coerceNat_bounds (r := (1, 20)) (by decide) (u8 bs 11)
  obtain ⟨hdb, hdb'⟩ := coerceNat_bounds (r := ((coerceNat (1, 20) (u8 bs 11)).1, 80)) (htb'.trans (by omega)) (u8 bs 12)
  obtain ⟨hgain, hgain'⟩ := coerceNat_bounds (r := (1, 32)) (by decide) (u8 bs 14)
  obtain ⟨hpulse, hpulse'⟩ := coerceNat_bounds (r := (10, 250)) (by decide) (u8 bs 15)
  exact ⟨hmin, hmax, hmax', (target _).1, (target _).2, (target _).1, (target _).2, (target _).1, (target _).2, htb, htb', hdb,
    hdb', (coerceNat_bounds (r := (0, 15)) (by decide) _).2, hgain, hgain', hpulse, hpulse', coerceWindow_legal _,
    fun right => by simp [right]⟩

theorem doorOf_legal {bs : List Byte} {d : DoorParams} {n : Nat} (h : doorOf bs = some (d, n)) : d.Legal := by
  simp only [doorOf] at h
  split at h <;> cases h
  obtain ⟨hdebounce, hdebounce'⟩ := coerceNat_bounds (r := (1, 15)) (by decide) (u8 bs 1)
  obtain ⟨hproof, hproof'⟩ := coerceNat_bounds (r := (1000, 15000)) (by decide) (u16 bs 4)
  exact ⟨hdebounce, hdebounce', (coerceNat_bounds (r := (0, 7)) (by decide) _).2, hproof, hproof',
    coerceNat_bounds (r := (1000, 60000)) (by decide) _⟩

/-- Settles O29, table by table. -/
theorem writtenEntriesAreLegal : Obligations.WrittenEntriesAreLegal :=
  ⟨fun _ _ _ _ => fitOf_legal, scheduleOf_legal, axleOf_legal, fun _ _ _ _ => cornerOf_legal, fun _ _ _ => doorOf_legal,
    fun i _ => coerceInt_bounds (paramRanges_le i) _⟩

end Sys2Proof.Machine
end

section
/-! The image of a legal entry reads back as that entry, for the tables beside the FIT (R173, R174, R185, R198). -/

namespace Sys2Proof.Machine

/-! ## Fields of an image, by its bytes in turn -/

@[simp] theorem u8_cons_zero (b : Byte) (bs : List Byte) : u8 (b :: bs) 0 = b.toNat := rfl

@[simp] theorem u8_cons_succ (b : Byte) (bs : List Byte) (i : Nat) : u8 (b :: bs) (i + 1) = u8 bs i := rfl

@[simp] theorem u16_cons_succ (b : Byte) (bs : List Byte) (i : Nat) : u16 (b :: bs) (i + 1) = u16 bs i := rfl

@[simp] theorem u32_cons_succ (b : Byte) (bs : List Byte) (i : Nat) : u32 (b :: bs) (i + 1) = u32 bs i := rfl

@[simp] theorem s16_cons_succ (b : Byte) (bs : List Byte) (i : Nat) : s16 (b :: bs) (i + 1) = s16 bs i := rfl

theorem byte_eq (x : Nat) : byte x = [BitVec.ofNat 8 x] := rfl

theorem half_eq (x : Nat) : half x = [BitVec.ofNat 8 x, BitVec.ofNat 8 (x / 256)] := rfl

theorem halfInt_eq (x : Int) : halfInt x = half (BitVec.ofInt 16 x).toNat := rfl

theorem wordBytes_eq (x : Nat) : wordBytes x =
    [BitVec.ofNat 8 x, BitVec.ofNat 8 (x / 256), BitVec.ofNat 8 (x / 256 / 256), BitVec.ofNat 8 (x / 256 / 256 / 256)] := rfl

/-- Two bytes read together give the number that they spell (R185). -/
@[simp] theorem u16_half (x : Nat) (bs : List Byte) :
    u16 (BitVec.ofNat 8 x :: BitVec.ofNat 8 (x / 256) :: bs) 0 = x % 65536 := by
  simp only [u16, u8_cons_zero, u8_cons_succ, BitVec.toNat_ofNat]
  omega

@[simp] theorem u32_wordBytes (x : Nat) (bs : List Byte) :
    u32 (BitVec.ofNat 8 x :: BitVec.ofNat 8 (x / 256) :: BitVec.ofNat 8 (x / 256 / 256)
      :: BitVec.ofNat 8 (x / 256 / 256 / 256) :: bs) 0 = x % 4294967296 := by
  simp only [u32, u16_cons_succ, u16_half]
  omega

/-- A signed number of two bytes reads back as it was (R185). -/
theorem s16_half {x : Int} (hl : -250 ≤ x) (hr : x ≤ 250) (bs : List Byte) :
    s16 (BitVec.ofNat 8 (BitVec.ofInt 16 x).toNat :: BitVec.ofNat 8 ((BitVec.ofInt 16 x).toNat / 256) :: bs) 0 = x := by
  rw [s16, u16_half, Nat.mod_eq_of_lt (BitVec.isLt _), signedOf_ofInt (by omega) (by omega) (by decide)]

/-- A legal value reads back from its bytes as it stands. -/
theorem coerceNat_mod {lo hi x m : Nat} (hl : lo ≤ x) (hr : x ≤ hi) (hm : hi < m) :
    coerceNat (lo, hi) (x % m) = (x, false) := by
  rw [Nat.mod_eq_of_lt (by omega)]
  exact coerceNat_of_mem hl hr

theorem scheduleRange_lt (i : Fin 8) : (scheduleRange i).2 < 65536 := by
  revert i
  decide

theorem pathRange_lt (i : Fin 4) : (pathRange i).2 < 65536 := by
  revert i
  decide

theorem rateRange_lt (i : Fin 4) : (rateRange i).2 < 65536 := by
  revert i
  decide

/-! ## Bits put together and taken apart -/

theorem bitsNat_lt (bs : List Bool) : bitsNat bs < 2 ^ bs.length := by
  induction bs with
  | nil => decide
  | cons b bs ih =>
    have := b.toNat_le
    rw [bitsNat, List.length_cons, pow_succ]
    omega

/-- Bit `i` of a number that is put together from bits (R198). -/
theorem bit_bitsNat (bs : List Bool) (i : Nat) : bit (bitsNat bs) i = bs.getD i false := by
  induction bs generalizing i with
  | nil => simp [bitsNat, bit]
  | cons b bs ih =>
    cases i with
    | zero => cases b <;> simp [bitsNat, bit]
    | succ i =>
      have half : (b.toNat + 2 * bitsNat bs) / 2 = bitsNat bs := by
        have := b.toNat_le
        omega
      rw [List.getD_cons_succ, ← ih, bit, bit, bitsNat, pow_succ', ← Nat.div_div_eq_div_mul, half]

/-! ## SCHEDULE, AXLE, CORNER -/

/-- Value `j` of a sequence of two-byte numbers. -/
theorem u16_flatMap_half {xs : List Nat} {j : Nat} (h : j < xs.length) : u16 (xs.flatMap half) (2 * j) = xs[j] % 65536 := by
  induction xs generalizing j with
  | nil => cases h
  | cons x xs ih =>
    rw [List.flatMap_cons, half_eq]
    cases j with
    | zero => exact u16_half x _
    | succ j => exact ih (Nat.lt_of_succ_lt_succ h)

theorem scheduleOf_scheduleBytes {i : Fin 8} {y : Schedule} (h : y.Legal i) : scheduleOf i (scheduleBytes y) = (y, 0) := by
  have read : ∀ (j : Nat) (hj : j < 9), coerceNat (scheduleRange i) (u16 (scheduleBytes y) (2 * j)) = (y[j], false) := by
    intro j hj
    obtain ⟨hl, hr⟩ := h ⟨j, hj⟩
    rw [scheduleBytes, u16_flatMap_half (by simpa using hj), Vector.getElem_toList]
    exact coerceNat_mod hl hr (scheduleRange_lt i)
  have values : #v[y[0], y[1], y[2], y[3], y[4], y[5], y[6], y[7], y[8]] = y := by
    refine Vector.ext fun j hj => ?_
    interval_cases j <;> rfl
  simp only [scheduleOf, read 0 (by decide), read 1 (by decide), read 2 (by decide), read 3 (by decide), read 4 (by decide),
    read 5 (by decide), read 6 (by decide), read 7 (by decide), read 8 (by decide), values, countIf_false]

theorem axleOf_axleBytes {i : Fin 4} {a : AxleParams} (h : a.Legal i) : axleOf i (axleBytes a) = (a, 0) := by
  obtain ⟨base, k, fallback, bg, bg', pmax, path, path', rate, rate'⟩ := h
  have readPath : coerceNat (pathRange i) (a.path % 65536) = (a.path, false) := coerceNat_mod path path' (pathRange_lt i)
  have readRate : coerceNat (rateRange i) (a.rate % 65536) = (a.rate, false) := coerceNat_mod rate rate' (rateRange_lt i)
  simp (disch := omega) only [axleOf, axleBytes, half_eq, byte_eq, List.cons_append, List.nil_append, u16_cons_succ,
    u8_cons_succ, u16_half, u8_cons_zero, BitVec.toNat_ofNat, Nat.reducePow, coerceNat_mod, readPath, readRate, countIf_false]

theorem coerceInt_pair {lo hi x : Int} (hl : lo ≤ x) (hr : x ≤ hi) : coerceInt (lo, hi) x = (x, false) :=
  coerceInt_of_mem hl hr

theorem coerceWindow_of_legal {n : Nat} (h : n = 1 ∨ n = 4 ∨ n = 16) : n % 256 = n ∧ coerceWindow n = n := by
  rcases h with rfl | rfl | rfl <;> exact ⟨rfl, rfl⟩

theorem cornerOf_cornerBytes {i : Fin 8} {c : CornerParams} (h : c.Legal i) : cornerOf i (cornerBytes c) = some (c, 0) := by
  obtain ⟨min, minmax, max, normal, normal', high, high', kneel, kneel', tb, tb', db, db', damping, gain, gain', pulse, pulse',
    window, pair⟩ := h
  have flags : bitsNat [c.kerb, c.rapid, c.pair] < 8 := bitsNat_lt _
  have flagByte : bitsNat [c.kerb, c.rapid, c.pair] % 256 = bitsNat [c.kerb, c.rapid, c.pair] := Nat.mod_eq_of_lt (by omega)
  have left : (c.pair && !isRight i) = c.pair := by
    cases hi : isRight i with
    | false => exact Bool.and_true _
    | true => rw [pair hi, Bool.false_and]
  obtain ⟨windowByte, stands⟩ := coerceWindow_of_legal window
  simp (disch := omega) only [cornerOf, cornerBytes, halfInt_eq, half_eq, byte_eq, List.cons_append, List.nil_append,
    u8_cons_succ, u8_cons_zero, BitVec.toNat_ofNat, Nat.reducePow, coerceNat_mod, s16_cons_succ, s16_half, coerceInt_pair,
    countIf_false, flagByte, bit_bitsNat, List.getD_cons_zero, List.getD_cons_succ, left, windowByte, stands]
  rw [if_neg (by omega)]
  simp

/-! ## DOOR, GUARD, CONSTANTS -/

theorem edge_flags (fitted : Bool) (edge : EdgeSpec) :
    fitted.toNat + 2 * edgeCode edge < 8 ∧ bit (fitted.toNat + 2 * edgeCode edge) 0 = fitted
      ∧ edgeOf ((fitted.toNat + 2 * edgeCode edge) / 2 % 4) = edge := by
  cases fitted <;> cases edge <;> decide

theorem eventSetOf_eventSetBits (e : EventSet) : eventSetOf (eventSetBits e) = e := by
  simp [eventSetOf, eventSetBits, bit_bitsNat]

theorem doorOf_doorBytes {d : DoorParams} (h : d.Legal) : doorOf (doorBytes d) = some (d, 0) := by
  obtain ⟨debounce, debounce', reversals, proof, proof', hold, hold'⟩ := h
  obtain ⟨flags, fitted, edge⟩ := edge_flags d.fitted d.edge
  have mask : eventSetBits d.mask < 64 := bitsNat_lt _
  have flagByte : (d.fitted.toNat + 2 * edgeCode d.edge) % 256 = d.fitted.toNat + 2 * edgeCode d.edge :=
    Nat.mod_eq_of_lt (by omega)
  have maskByte : eventSetBits d.mask % 256 = eventSetBits d.mask := Nat.mod_eq_of_lt (by omega)
  simp (disch := omega) only [doorOf, doorBytes, half_eq, byte_eq, List.cons_append, List.nil_append, u16_cons_succ,
    u8_cons_succ, u16_half, u8_cons_zero, BitVec.toNat_ofNat, Nat.reducePow, coerceNat_mod, countIf_false, flagByte, maskByte,
    fitted, edge, eventSetOf_eventSetBits]
  rw [if_neg (by omega)]

theorem gateOf_gateCode (g : Gate) : gateOf (gateCode g % 256) = some g := by
  cases g <;> rfl

theorem predicateOf_predicateCode (p : Predicate) : predicateOf (predicateCode p % 256) = some p := by
  cases p <;> rfl

theorem slotOf_mod (i : SlotId) : slotOf (i.val % 256) = some i := by
  have small : i.val % 256 = i.val := Nat.mod_eq_of_lt (by omega)
  simp [small, slotOf]

theorem ofNat_mod_toNat (x : BitVec 32) : BitVec.ofNat 32 (x.toNat % 4294967296) = x := by
  simp [Nat.mod_eq_of_lt x.isLt]

theorem guardOf_guardBytes (g : GuardRule) : guardOf (guardBytes g) = some (g, 0) := by
  have flags : bitsNat [g.enabled, g.swap] < 4 := bitsNat_lt _
  have flagByte : bitsNat [g.enabled, g.swap] % 256 = bitsNat [g.enabled, g.swap] := Nat.mod_eq_of_lt (by omega)
  simp only [guardOf, guardBytes, wordBytes_eq, byte_eq, List.cons_append, List.nil_append, u32_cons_succ,
    u8_cons_succ, u32_wordBytes, u8_cons_zero, BitVec.toNat_ofNat, Nat.reducePow, gateOf_gateCode, slotOf_mod,
    predicateOf_predicateCode, ofNat_mod_toNat, flagByte, bit_bitsNat, List.getD_cons_zero, List.getD_cons_succ]
  rw [if_neg (by omega)]

theorem paramRanges_bounds (i : Fin 32) : 0 ≤ paramRanges[i].1 ∧ paramRanges[i].2 ≤ 60000 := by
  revert i
  decide

/-- A signed number of four bytes reads back as it was (R185). -/
theorem s32_wordBytes {x : Int} (hl : 0 ≤ x) (hr : x ≤ 60000) : s32 (wordBytes (BitVec.ofInt 32 x).toNat) 0 = x := by
  rw [s32, wordBytes_eq, u32_wordBytes, Nat.mod_eq_of_lt (BitVec.isLt _), signedOf_toNat, BitVec.toInt_ofInt]
  exact Int.bmod_eq_of_le_mul_two (by omega) (by omega)

theorem constantOf_constantBytes {i : Fin 32} {x : Int} (hl : paramRanges[i].1 ≤ x) (hr : x ≤ paramRanges[i].2) :
    constantOf i (constantBytes x) = (x, 0) := by
  obtain ⟨low, top⟩ := paramRanges_bounds i
  simp only [constantOf, constantBytes, s32_wordBytes (low.trans hl) (hr.trans top), coerceInt_of_mem hl hr, countIf_false]

end Sys2Proof.Machine
end

section
/-! The image of a legal FIT entry reads back as that entry (R173, R174, R198). -/

namespace Sys2Proof.Machine

/-! ## The parts of an image -/

/-- The first byte of a FIT image: the port, the class and three flags, put together and taken apart (R198). -/
theorem fitHead_bits {p c : Nat} (hp : p < 4) (hc : c < 8) (forward counter echo : Bool) {x : Nat}
    (hx : x = p + 4 * c + 32 * forward.toNat + 64 * counter.toNat + 128 * echo.toNat) :
    x % 256 = x ∧ x % 4 = p ∧ x / 4 % 8 = c ∧ bit x 5 = forward ∧ bit x 6 = counter ∧ bit x 7 = echo := by
  subst hx
  simp only [bit, Nat.reducePow]
  cases forward <;> cases counter <;> cases echo <;>
    simp only [Bool.toNat_true, Bool.toNat_false, beq_iff_eq, beq_eq_false_iff_ne] <;> omega

/-- A field word: a start bit, a width and a flag in one number (R198). -/
theorem fieldWord_bits {start width : Nat} (hs : start < 512) (hw : width ≤ 32) (signed : Bool) {x : Nat}
    (hx : x = start + 512 * width + 32768 * signed.toNat) :
    x % 65536 = x ∧ x % 512 = start ∧ x / 512 % 64 = width ∧ bit x 15 = signed := by
  subst hx
  simp only [bit, Nat.reducePow]
  cases signed <;> simp only [Bool.toNat_true, Bool.toNat_false, beq_iff_eq, beq_eq_false_iff_ne] <;> omega

theorem rewriteOf_rewriteCode {cls : ArrivalClass} {r : Rewrite} (h : r.Legal cls) :
    rewriteOf (rewriteCode r % 256) (rewriteField r % 65536) = some r := by
  cases r with
  | noRewrite => rfl
  | clampFront start width =>
    obtain ⟨-, low, placed⟩ := h
    obtain ⟨small, hs, hw, -⟩ := fieldWord_bits (x := start + 512 * width) (by omega) placed.1 false rfl
    have clear : ¬32768 ≤ start + 512 * width := by omega
    simp [rewriteOf, rewriteCode, rewriteField, small, hs, hw, clear, fieldLegal_iff.mpr ⟨low, placed⟩]
  | gateTraction start width =>
    obtain ⟨-, low, placed⟩ := h
    obtain ⟨small, hs, hw, -⟩ := fieldWord_bits (x := start + 512 * width) (by omega) placed.1 false rfl
    have clear : ¬32768 ≤ start + 512 * width := by omega
    simp [rewriteOf, rewriteCode, rewriteField, small, hs, hw, clear, fieldLegal_iff.mpr ⟨low, placed⟩]

theorem triggerOf_triggerCode (t : Trigger) : triggerOf (triggerCode t % 256) = some t := by
  cases t with
  | levelAxle a => cases a <;> rfl
  | door d => cases d <;> rfl
  | _ => rfl

theorem emitKindOf_emitKindCode (k : EmitKind) : emitKindOf (emitKindCode k % 256) = some k := by
  cases k with
  | steer r => cases r <;> rfl
  | damp j => cases j <;> rfl
  | brake a => cases a <;> rfl
  | valve a => cases a <;> rfl
  | door d => cases d <;> rfl
  | chassisState => rfl

theorem arrivalClassOf_arrivalClassCode (c : ArrivalClass) : arrivalClassOf (arrivalClassCode c) = some c := by
  cases c <;> rfl

theorem arrivalClassCode_lt (c : ArrivalClass) : arrivalClassCode c < 8 := by
  cases c <;> decide

theorem counterOf_of_legal {c : Option Nat} (h : ∀ start, c = some start → start ≤ 508) :
    counterOf c.isSome (c.getD 0 % 65536) = some c := by
  cases c with
  | none => rfl
  | some start =>
    have legal := h start rfl
    have small : start % 65536 = start := Nat.mod_eq_of_lt (by omega)
    simp [counterOf, small, legal]

/-! ## Extractors -/

theorem extractorBytes_length (e : Extractor) : (extractorBytes e).length = 11 := rfl

theorem extractorOf_extractorBytes {e : Extractor} (h : 1 ≤ e.width ∧ e.width ≤ 32 ∧ e.start + e.width ≤ 512)
    (bs : List Byte) : extractorOf (extractorBytes e ++ bs) = some e := by
  obtain ⟨low, width, placed⟩ := h
  obtain ⟨small, hs, hw, signed⟩ := fieldWord_bits (start := e.start) (by omega) width e.signed rfl
  simp only [extractorOf, extractorBytes, half_eq, byte_eq, wordBytes_eq, List.cons_append, List.nil_append, u16_half,
    u8_cons_succ, u8_cons_zero, u32_cons_succ, u32_wordBytes, BitVec.toNat_ofNat, Nat.reducePow, slotOf_mod, ofNat_mod_toNat,
    small, hs, hw, signed, fieldLegal_iff.mpr ⟨low, width, placed⟩, if_true]

theorem extractorsOf_extractorBytes {es : List Extractor}
    (h : ∀ e ∈ es, 1 ≤ e.width ∧ e.width ≤ 32 ∧ e.start + e.width ≤ 512) (bs : List Byte) :
    extractorsOf es.length (es.flatMap extractorBytes ++ bs) = some es := by
  induction es with
  | nil => rfl
  | cons e es ih =>
    obtain ⟨first, rest⟩ := List.forall_mem_cons.mp h
    rw [List.flatMap_cons, List.append_assoc, List.length_cons, extractorsOf, extractorOf_extractorBytes first,
      List.drop_left' (extractorBytes_length e), ih rest]

theorem flatMap_extractorBytes_length (es : List Extractor) : (es.flatMap extractorBytes).length = 11 * es.length := by
  induction es with
  | nil => rfl
  | cons e es ih =>
    rw [List.flatMap_cons, List.length_append, ih, extractorBytes_length, List.length_cons]
    omega

theorem allZero_replicate (n : Nat) : allZero (List.replicate n 0) = true := by
  simp [allZero]

/-! ## Entries -/

theorem fitOf_fitBytes_none (node : BitVec 3) : fitOf node (fitBytes none) = some (none, 0) := by
  revert node
  decide

theorem arrivalRole_readBack {port : Port} {cls : ArrivalClass} {rewrite : Rewrite} {trigger : Trigger}
    {extractors : List Extractor} (h : FitRole.Legal (.arrival port cls rewrite trigger extractors)) {bs : List Byte}
    (h5 : u8 bs 5 = rewriteCode rewrite % 256) (h6 : u16 bs 6 = rewriteField rewrite % 65536)
    (h12 : u8 bs 12 = triggerCode trigger % 256) (h13 : u8 bs 13 = extractors.length) {n : Nat}
    (rest : bs.drop 14 = extractors.flatMap extractorBytes ++ List.replicate n 0) :
    arrivalRoleOf port cls bs = some (.arrival port cls rewrite trigger extractors) := by
  obtain ⟨sync, legal, count, placed⟩ := h
  have command : rewrite ≠ .noRewrite → cls = .command := by
    cases rewrite with
    | noRewrite => exact fun hn => absurd rfl hn
    | clampFront _ _ | gateTraction _ _ => exact fun _ => legal.1
  have zeros : allZero (bs.drop (14 + 11 * extractors.length)) = true := by
    rw [← List.drop_drop, rest, List.drop_left' (flatMap_extractorBytes_length extractors)]
    exact allZero_replicate n
  rw [arrivalRoleOf, h5, h6, h12, h13, rest, rewriteOf_rewriteCode legal, triggerOf_triggerCode,
    extractorsOf_extractorBytes placed]
  exact if_pos ⟨count, zeros, sync, command⟩

/-- A FIT image by its fields: the first byte, identifier, rewrite, watch and counter, the code of the trigger or the emit kind, the
number of extractors, and the rest (R198). -/
def fitImage (b0 : Nat) (e : FitEntry) (rewrite : Rewrite) (code count : Nat) (rest : List Byte) : List Byte :=
  byte b0 ++ wordBytes e.id.toNat ++ byte (rewriteCode rewrite) ++ half (rewriteField rewrite) ++ half e.watch
    ++ half (e.counter.getD 0) ++ byte code ++ byte count ++ rest

/-- What is read from an image, field by field. -/
theorem fitImage_fields (b0 : Nat) (e : FitEntry) (rewrite : Rewrite) (code count : Nat) (rest : List Byte) :
    let bs := fitImage b0 e rewrite code count rest
    u8 bs 0 = b0 % 256 ∧ u32 bs 1 = e.id.toNat ∧ u8 bs 5 = rewriteCode rewrite % 256
      ∧ u16 bs 6 = rewriteField rewrite % 65536 ∧ u16 bs 8 = e.watch % 65536 ∧ u16 bs 10 = e.counter.getD 0 % 65536
      ∧ u8 bs 12 = code % 256 ∧ u8 bs 13 = count % 256 ∧ bs.drop 14 = rest := by
  have id : e.id.toNat % 4294967296 = e.id.toNat := Nat.mod_eq_of_lt (e.id.isLt.trans (by decide))
  simp only [fitImage, half_eq, byte_eq, wordBytes_eq, List.cons_append, List.nil_append, u16_half, u16_cons_succ,
    u8_cons_succ, u8_cons_zero, u32_cons_succ, u32_wordBytes, BitVec.toNat_ofNat, Nat.reducePow, List.drop_succ_cons,
    List.drop_zero, id, and_self]

/-- The two codes of the ports in a FIT image (R198). -/
def portBits : Port → Nat
  | .u => 0
  | .d => 1

theorem fitBytes_arrival {e : FitEntry} {port : Port} {cls : ArrivalClass} {rewrite : Rewrite} {trigger : Trigger}
    {extractors : List Extractor} (h : e.role = .arrival port cls rewrite trigger extractors) :
    fitBytes (some e) = fitImage (portBits port + 4 * arrivalClassCode cls + 32 * e.forward.toNat + 64 * e.counter.isSome.toNat
        + 128 * false.toNat) e rewrite (triggerCode trigger) extractors.length (extractors.flatMap extractorBytes
        ++ List.replicate (44 - (extractors.flatMap extractorBytes).length) 0) := by
  cases port <;> simp [fitBytes, h, fitImage, portBits]

/-- The bytes of an echo field (R198). -/
def echoBytes (x : EchoSpec) : List Byte := byte x.slot.val ++ half x.tolerance ++ half x.deadline

theorem fitBytes_emit {e : FitEntry} {kind : EmitKind} {echo : Option EchoSpec} (h : e.role = .emit kind echo) :
    fitBytes (some e) = fitImage (2 + 4 * 4 + 32 * e.forward.toNat + 64 * e.counter.isSome.toNat + 128 * echo.isSome.toNat)
      e .noRewrite (emitKindCode kind) 0
      ((echo.map echoBytes).getD [] ++ List.replicate (44 - ((echo.map echoBytes).getD []).length) 0) := by
  cases echo <;> simp [fitBytes, h, fitImage, echoBytes, rewriteCode, rewriteField]

theorem u8_drop (bs : List Byte) (n i : Nat) : u8 (bs.drop n) i = u8 bs (n + i) := by
  simp [u8, List.getD_eq_getElem?_getD, List.getElem?_drop]

theorem u16_drop (bs : List Byte) (n i : Nat) : u16 (bs.drop n) i = u16 bs (n + i) := by
  simp only [u16, u8_drop, Nat.add_assoc]

/-- An echo field within its ranges reads back as it stands (R166, R173). -/
theorem echoOf_echoBytes {x : EchoSpec} (ht : x.tolerance ≤ 1000) (hd : 10 ≤ x.deadline) (hd' : x.deadline ≤ 2550)
    {bs tail : List Byte} (rest : bs.drop 14 = echoBytes x ++ tail) : echoOf bs = some (x, 0) ∧ bs.drop 19 = tail := by
  have slot : u8 bs 14 = x.slot.val % 256 := by
    rw [← u8_drop bs 14 0, rest]
    rfl
  have tolerance : u16 bs 15 = x.tolerance % 65536 := by
    rw [← u16_drop bs 14 1, rest]
    exact u16_half x.tolerance (half x.deadline ++ tail)
  have deadline : u16 bs 17 = x.deadline % 65536 := by
    rw [← u16_drop bs 14 3, rest]
    exact u16_half x.deadline tail
  refine ⟨?_, ?_⟩
  · simp (disch := omega) only [echoOf, slot, tolerance, deadline, slotOf_mod, coerceNat_mod, countIf_false]
  · rw [← List.drop_drop (i := 5) (j := 14), rest]
    exact List.drop_left' rfl

theorem emitRole_readBack {kind : EmitKind} {echo : Option EchoSpec} (h : FitRole.Legal (.emit kind echo)) {bs : List Byte}
    (h5 : u8 bs 5 = 0) (h6 : u16 bs 6 = 0) (h12 : u8 bs 12 = emitKindCode kind % 256) (h13 : u8 bs 13 = 0) {n : Nat}
    (rest : bs.drop 14 = (echo.map echoBytes).getD [] ++ List.replicate n 0) :
    emitRoleOf echo.isSome bs = some (.emit kind echo, 0) := by
  have unwritten : ¬(rewriteOf 0 0 ≠ some .noRewrite ∨ (0 : Nat) ≠ 0) := by decide
  cases echo with
  | none =>
    have zeros : allZero (bs.drop 14) = true := rest ▸ allZero_replicate n
    simp only [emitRoleOf, h5, h6, h12, h13, emitKindOf_emitKindCode, zeros, if_neg unwritten, Option.isSome_none,
      Bool.false_eq_true, if_false, if_true]
  | some x =>
    obtain ⟨echoed, tolerance, deadline, deadline'⟩ := h x rfl
    obtain ⟨read, tail⟩ := echoOf_echoBytes tolerance deadline deadline' rest
    have checks : kind.echoKind ≠ none ∧ allZero (bs.drop 19) = true := ⟨echoed, tail ▸ allZero_replicate n⟩
    simp only [emitRoleOf, h5, h6, h12, h13, emitKindOf_emitKindCode, read, if_neg unwritten, Option.isSome_some,
      if_true, if_pos checks]

theorem fitOf_fitBytes_arrival {node : BitVec 3} {e : FitEntry} (legal : e.Legal node) {port : Port} {cls : ArrivalClass}
    {rewrite : Rewrite} {trigger : Trigger} {extractors : List Extractor}
    (h : e.role = .arrival port cls rewrite trigger extractors) : fitOf node (fitBytes (some e)) = some (some e, 0) := by
  obtain ⟨watch, step, running, counter, role, -⟩ := legal
  have watchByte : e.watch % 65536 = e.watch := Nat.mod_eq_of_lt (by omega)
  have stands : coerceWatch (decide (cls = .sync)) e.watch = e.watch :=
    coerceWatch_of_legal watch step fun hs => running (by rw [h]; exact hs)
  have small : ¬2 ^ 29 ≤ e.id.toNat := Nat.not_le.mpr e.id.isLt
  rw [h] at role
  have few : extractors.length % 256 = extractors.length := Nat.mod_eq_of_lt (by have := role.2.2.1; omega)
  have two : portBits port < 2 ∧ (if portBits port = 0 then Port.u else .d) = port := by cases port <;> decide
  obtain ⟨byte0, hport, hclass, hforward, hcounter, hecho⟩ :=
    fitHead_bits (p := portBits port) (by omega) (arrivalClassCode_lt cls) e.forward e.counter.isSome false rfl
  rw [fitBytes_arrival h]
  generalize himage : fitImage _ _ _ _ _ _ = bs
  obtain ⟨i0, i1, i5, i6, i8, i10, i12, i13, rest⟩ := himage ▸ fitImage_fields _ _ _ _ _ _
  have read := arrivalRole_readBack role i5 i6 i12 (i13.trans few) rest
  simp only [fitOf, i0, byte0, hport, hclass, hforward, hcounter, hecho, i1, i8, watchByte, stands, i10,
    counterOf_of_legal counter, arrivalClassOf_arrivalClassCode, two.2, read, ← h, if_neg small]
  rw [if_neg (by omega), if_neg (by omega)]
  simp

theorem fitOf_fitBytes_emit {node : BitVec 3} {e : FitEntry} (legal : e.Legal node) {kind : EmitKind}
    {echo : Option EchoSpec} (h : e.role = .emit kind echo) : fitOf node (fitBytes (some e)) = some (some e, 0) := by
  obtain ⟨watch, step, -, counter, role, free⟩ := legal
  have watchByte : e.watch % 65536 = e.watch := Nat.mod_eq_of_lt (by omega)
  have stands : coerceWatch false e.watch = e.watch := coerceWatch_of_legal watch step nofun
  have small : ¬2 ^ 29 ≤ e.id.toNat := Nat.not_le.mpr e.id.isLt
  have other : e.id ≠ responseId node := free (by rw [h]; rfl)
  rw [h] at role
  obtain ⟨byte0, hport, hclass, hforward, hcounter, hecho⟩ :=
    fitHead_bits (p := 2) (c := 4) (by omega) (by omega) e.forward e.counter.isSome echo.isSome rfl
  rw [fitBytes_emit h]
  generalize himage : fitImage _ _ _ _ _ _ = bs
  obtain ⟨i0, i1, i5, i6, i8, i10, i12, i13, rest⟩ := himage ▸ fitImage_fields _ _ _ _ _ _
  have read := emitRole_readBack role i5 i6 i12 i13 rest
  simp only [fitOf, i0, byte0, hport, hclass, hforward, hcounter, hecho, i1, i8, watchByte, stands, i10,
    counterOf_of_legal counter, read, ← h, if_neg small]
  rw [if_neg (by omega)]
  simp [other]

/-- The image of a legal entry reads back as that entry, whatever its role (R198). -/
theorem fitOf_fitBytes {node : BitVec 3} {e : FitEntry} (legal : e.Legal node) :
    fitOf node (fitBytes (some e)) = some (some e, 0) := by
  cases h : e.role with
  | arrival port cls rewrite trigger extractors => exact fitOf_fitBytes_arrival legal h
  | emit kind echo => exact fitOf_fitBytes_emit legal h

/-- Settles O28, table by table. -/
theorem imagesReadBack : Obligations.ImagesReadBack :=
  ⟨fun _ _ => fitOf_fitBytes, fitOf_fitBytes_none, fun _ _ => scheduleOf_scheduleBytes, fun _ _ => axleOf_axleBytes,
    fun _ _ => cornerOf_cornerBytes, fun _ => doorOf_doorBytes, guardOf_guardBytes, fun _ _ => constantOf_constantBytes⟩

end Sys2Proof.Machine
end

section
/-! WRITE and SWAP (R187, R190, R192, R193). -/

namespace Sys2Proof.Machine

/-! ## Denials -/

/-- A denied request changes nothing of its own; the status is that of the expected equation (R186). -/
theorem State.Answers.denied {s : State} {data : List Byte} {q : PortState} (h : s.Answers data q) {code tag : Byte}
    {e : Status} (hd : data = [code, tag, BitVec.ofNat 8 (statusCode e)]) : s.deny code tag e = s.answered q :=
  State.Answers.deny (hd ▸ h)

/-! ## Where a WRITE is addressed to (R190) -/

theorem State.address_of_continue (s : State) {b : Byte} (tag : Byte) (more : List Byte) (h : bit b.toNat 3 = true) :
    s.address (tag :: b :: more) = .at' s.agent.cursor.table s.agent.cursor.index s.agent.cursor.mode :=
  if_pos h

theorem State.address_of_named (s : State) {b : Byte} (tag index : Byte) (more : List Byte) {n : TableName} {m : AdvanceMode}
    (h : bit b.toNat 3 = false) (hn : tableOf (b.toNat % 8) = some n) (hm : modeOf (b.toNat / 16 % 4) = some m) :
    s.address (tag :: b :: index :: more) = .at' n index.toNat m := by
  simp [State.address, paramByte, h, hn, hm]

/-- The address that a request names, or under CONTINUE the cursor's (R190). -/
theorem State.address_eq (s : State) {b index : Byte} (tag : Byte) (more : List Byte) {n : TableName} {start : Nat}
    {mode : AdvanceMode} (continued : bit b.toNat 3 = true → s.agent.cursor = { table := n, index := start, mode })
    (named : bit b.toNat 3 = false →
      tableOf (b.toNat % 8) = some n ∧ start = index.toNat ∧ modeOf (b.toNat / 16 % 4) = some mode) :
    s.address (tag :: b :: index :: more) = .at' n start mode := by
  cases h : bit b.toNat 3 with
  | true => rw [s.address_of_continue tag _ h, continued h]
  | false =>
    obtain ⟨hn, rfl, hm⟩ := named h
    exact s.address_of_named tag index _ h hn hm

theorem State.address_of_noMode (s : State) {b : Byte} (tag : Byte) (more : List Byte) (h : bit b.toNat 3 = false)
    (hm : b.toNat / 16 % 4 = 3) : s.address (tag :: b :: more) = .noMode := by
  simp [State.address, paramByte, h, hm, modeOf]

/-- Every mode code but 3 names a mode (12.6). -/
theorem modeOf_eq_some {n : Nat} (h : n < 4) (h3 : n ≠ 3) : ∃ m, modeOf n = some m := by
  interval_cases n
  · exact ⟨_, rfl⟩
  · exact ⟨_, rfl⟩
  · exact ⟨_, rfl⟩
  · exact absurd rfl h3

theorem State.address_of_noTable (s : State) {b : Byte} (tag : Byte) (more : List Byte) (h : bit b.toNat 3 = false)
    (hm : b.toNat / 16 % 4 ≠ 3) (hn : b.toNat % 8 = 7) : s.address (tag :: b :: more) = .noTable := by
  obtain ⟨m, hm⟩ := modeOf_eq_some (by omega) hm
  simp [State.address, paramByte, h, hm, hn, tableOf]

/-! ## The checks on a WRITE (R187) -/

theorem maxCount_eq (n : TableName) : maxCount n = 59 / imageSize n := by
  cases n <;> rfl

theorem badExtent_write_iff (t : Option TableName) (n : Nat) (tag b index count : Byte) (more : List Byte) :
    badExtent true t n (tag :: b :: index :: count :: more) = true ↔
      n = 0 ∨ largestCount t < n ∨ more.length < n * shortestImage t := by
  have length : 5 + n * shortestImage t ≤ more.length + 1 + 1 + 1 + 1 + 1 ↔ n * shortestImage t ≤ more.length := by omega
  simp [badExtent, reaches, length, or_assoc]

/-- Images of one size, put together. -/
theorem flatten_length_of_sizes {images : List (List Byte)} {size : Nat} (h : ∀ image ∈ images, image.length = size) :
    images.flatten.length = images.length * size := by
  rw [List.length_flatten, List.map_congr_left h, List.map_const', List.sum_replicate, smul_eq_mul]

/-- A WRITE of which a bit is set that the layout gives as 0 (R187). -/
theorem State.accessOf_write_of_bits (s : State) {b : Byte} (tag : Byte) (more : List Byte)
    (h : bit b.toNat 7 = true ∨ bit b.toNat 6 = true) : s.accessOf true (tag :: b :: more) = .error .badRequest := by
  have refused : (!reaches (tag :: b :: more) 5 || bit b.toNat 7 || (true && bit b.toNat 6)) = true := by
    rcases h with h | h <;> simp [h]
  exact if_pos refused

theorem State.accessOf_write_of_short (s : State) {rest : List Byte} (h : rest.length ≤ 3) :
    s.accessOf true rest = .error .badRequest := by
  have short : reaches rest 5 = false := by simpa [reaches] using Nat.lt_succ_of_le h
  simp [State.accessOf, short]

section
variable {s : State} {tag b index count : Byte} {more : List Byte} (clear7 : bit b.toNat 7 = false)
  (clear6 : bit b.toNat 6 = false)
include clear7 clear6

theorem State.accessOf_write_noMode (h : s.address (tag :: b :: index :: count :: more) = .noMode) :
    s.accessOf true (tag :: b :: index :: count :: more) = .error .badRequest := by
  simp [State.accessOf, paramByte, reaches, clear7, clear6, h]

theorem State.accessOf_write_noTable (h : s.address (tag :: b :: index :: count :: more) = .noTable) :
    s.accessOf true (tag :: b :: index :: count :: more) =
      if count.toNat = 0 ∨ 14 < count.toNat ∨ more.length < 4 * count.toNat then .error .badRequest else .error .badTable := by
  have extent := badExtent_write_iff none count.toNat tag b index count more
  rw [show largestCount none = 14 from rfl, show shortestImage none = 4 from rfl, Nat.mul_comm] at extent
  split
  · rename_i bad
    simp [State.accessOf, paramByte, reaches, clear7, clear6, h, extent.mpr bad]
  · rename_i fits
    simp [State.accessOf, paramByte, reaches, clear7, clear6, h, Bool.eq_false_iff.mpr (mt extent.mp fits)]

theorem State.accessOf_write_at {n : TableName} {i : Nat} {m : AdvanceMode}
    (h : s.address (tag :: b :: index :: count :: more) = .at' n i m) :
    s.accessOf true (tag :: b :: index :: count :: more) =
      if count.toNat = 0 ∨ 59 / imageSize n < count.toNat ∨ more.length < count.toNat * imageSize n then .error .badRequest
      else if tableSize n ≤ i then .error .badIndex
      else .ok { table := n, start := i, mode := m, count := count.toNat, active := false } := by
  have extent := badExtent_write_iff (some n) count.toNat tag b index count more
  rw [show largestCount (some n) = 59 / imageSize n from maxCount_eq n,
    show shortestImage (some n) = imageSize n from rfl] at extent
  split
  · rename_i bad
    simp [State.accessOf, paramByte, reaches, clear7, clear6, h, extent.mpr bad]
  · rename_i fits
    simp [State.accessOf, paramByte, reaches, clear7, clear6, h, Bool.eq_false_iff.mpr (mt extent.mp fits)]

/-- A WRITE of a legal count that carries its images passes check 2 (R187). -/
theorem State.accessOf_write_images {images : List (List Byte)} {n : TableName} {i : Nat} {m : AdvanceMode}
    (h : s.address (tag :: b :: index :: count :: (images.flatten ++ more)) = .at' n i m)
    (length : images.length = count.toNat) (sizes : ∀ image ∈ images, image.length = imageSize n) (low : 1 ≤ count.toNat)
    (high : count.toNat ≤ 59 / imageSize n) :
    s.accessOf true (tag :: b :: index :: count :: (images.flatten ++ more)) =
      if tableSize n ≤ i then .error .badIndex
      else .ok { table := n, start := i, mode := m, count := count.toNat, active := false } := by
  have total := flatten_length_of_sizes sizes
  rw [State.accessOf_write_at clear7 clear6 h, if_neg]
  rw [List.length_append, total, length]
  omega

end

/-! ## The images and their positions (R190, R192) -/

/-- Images of one size in a frame are cut apart as they were put together (12.6). -/
theorem imagesFrom_flatten {size : Nat} {images : List (List Byte)} (h : ∀ image ∈ images, image.length = size)
    (more : List Byte) : imagesFrom size images.length (images.flatten ++ more) = images := by
  induction images with
  | nil => rfl
  | cons image images ih =>
    obtain ⟨first, rest⟩ := List.forall_mem_cons.mp h
    rw [List.flatten_cons, List.append_assoc, List.length_cons, imagesFrom, List.take_left' first, List.drop_left' first,
      ih rest]

/-- A sequence of writes, with the counts of coerced values added from the front (R173, R192). -/
theorem writeImages_eq_foldlM (node : BitVec 3) (n : TableName) (xs : List (Nat × List Byte)) (st : StagedTables) (k : Nat) :
    (xs.foldlM (fun (x : StagedTables × Nat) (y : Nat × List Byte) =>
      (writeImage node x.1 n y.1 y.2).map fun z => (z.1, x.2 + z.2)) (st, k))
      = (writeImages node n xs st).map fun r => (r.1, k + r.2) := by
  induction xs generalizing st k with
  | nil => rfl
  | cons x xs ih =>
    rw [List.foldlM_cons]
    simp only [writeImages]
    cases writeImage node st n x.1 x.2 with
    | none => rfl
    | some r =>
      refine (ih r.1 (k + r.2)).trans ?_
      simp only
      cases writeImages node n xs r.1 with
      | none => rfl
      | some r' => exact congrArg (fun m => some (r'.1, m)) (Nat.add_assoc _ _ _)

/-- Two maps that agree below a bound which the second keeps agree when iterated from below it. -/
theorem iterate_congr_of_lt {f g : Nat → Nat} {bound : Nat} (agree : ∀ p < bound, f p = g p) (keep : ∀ p < bound, g p < bound)
    {start : Nat} (h : start < bound) (k : Nat) : f^[k] start = g^[k] start := by
  induction k generalizing start with
  | zero => rfl
  | succ k ih => rw [Function.iterate_succ_apply, Function.iterate_succ_apply, agree start h, ih (keep start h)]

theorem writtenImages_flatten {images : List (List Byte)} {n : TableName} {start k : Nat} {mode : AdvanceMode} {active : Bool}
    {tag b index count : Byte} {more : List Byte} (length : images.length = k)
    (sizes : ∀ image ∈ images, image.length = imageSize n) :
    writtenImages ⟨n, start, mode, k, active⟩ (tag :: b :: index :: count :: (images.flatten ++ more)) = images := by
  subst length
  exact imagesFrom_flatten sizes more

/-- A WRITE treats its positions in turn from its start (R190, R192). -/
theorem writeImages_positions {n : TableName} {mode : AdvanceMode} {onward : Nat → Nat}
    (agree : ∀ p < tableSize n, onward p = nextPosition n mode p) {start : Nat} (h : start < tableSize n) (node : BitVec 3)
    (count : Nat) (images : List (List Byte)) (st : StagedTables) :
    ((((List.range count).map fun k => onward^[k] start).zip images).foldlM
      (fun (x : StagedTables × Nat) (y : Nat × List Byte) =>
        (writeImage node x.1 n y.1 y.2).map fun z => (z.1, x.2 + z.2)) (st, 0))
      = writeImages node n ((positions n mode count start).zip images) st := by
  have turns : ((List.range count).map fun k => onward^[k] start) = positions n mode count start :=
    (List.map_congr_left fun k _ => iterate_congr_of_lt agree (fun _ => nextPosition_lt) h k).trans
      (positions_eq n mode _ _).symm
  rw [turns, writeImages_eq_foldlM]
  simp only [Nat.zero_add, Prod.mk.eta, Option.map_id']

/-! ## A WRITE by what its checks say (R192) -/

theorem State.writeRequest_of_error {s : State} {rest : List Byte} {e : Status} (h : s.accessOf true rest = .error e) :
    s.writeRequest rest = s.deny 4 (tagOf rest) e := by
  unfold State.writeRequest
  rw [h]

section
variable {s : State} {rest : List Byte} {a : Access} (ok : s.accessOf true rest = .ok a)
include ok

theorem State.writeRequest_of_pending (h : s.tables.waiting.get a.table = true) :
    s.writeRequest rest = s.deny 4 (tagOf rest) .pending := by
  unfold State.writeRequest
  rw [ok]
  exact if_pos h

variable (free : s.tables.waiting.get a.table = false)
include free

theorem State.writeRequest_of_range (h : writeImages s.node a.table
    ((positions a.table a.mode a.count a.start).zip (writtenImages a rest)) s.tables.staged = none) :
    s.writeRequest rest = s.deny 4 (tagOf rest) .range := by
  unfold State.writeRequest
  rw [ok]
  simp only [free, h, Bool.false_eq_true, if_false]

theorem State.writeRequest_of_written {st : StagedTables} {coerced : Nat} (h : writeImages s.node a.table
    ((positions a.table a.mode a.count a.start).zip (writtenImages a rest)) s.tables.staged = some (st, coerced)) :
    s.writeRequest rest = s.answer 4 (tagOf rest)
      { status := .done
        payload := byte a.start ++ byte a.count ++ byte coerced ++ half (entrySum st a.table).toNat }
      fun t => (t.stage st a.table).setCursor a.cursor := by
  unfold State.writeRequest
  rw [ok]
  simp only [free, h, Bool.false_eq_true, if_false]

end

/-! ## A SWAP by what its checks say (R193) -/

theorem shortestImage_ge (t : Option TableName) : 4 ≤ shortestImage t := by
  cases t with
  | none => decide
  | some n => cases n <;> decide

theorem swapArgs_of_short {rest : List Byte} (h : rest.length < 5 + shortestImage (tableOf (paramByte rest 2))) :
    swapArgs rest = .error .badRequest := by
  have short : reaches rest (6 + shortestImage (tableOf (paramByte rest 2))) = false := by
    simp only [reaches, decide_eq_false_iff_not]
    omega
  simp [swapArgs, short]

theorem swapArgs_of_seven {rest : List Byte} (h : 9 ≤ rest.length) (h7 : paramByte rest 2 = 7) :
    swapArgs rest = .error .badTable := by
  have long : reaches rest (6 + shortestImage none) = true := by
    simp only [reaches, decide_eq_true_eq, show shortestImage none = 4 from rfl]
    omega
  have noTable : tableOf 7 = none := rfl
  simp [swapArgs, h7, noTable, long, tableByte]

theorem swapArgs_of_table {tag index low high : Byte} {image more : List Byte} {n : TableName} {code : Nat}
    (hc : code < 7) (hn : tableOf code = some n) (hi : image.length = imageSize n) :
    swapArgs (tag :: BitVec.ofNat 8 code :: index :: low :: high :: (image ++ more)) =
      if tableSize n ≤ index.toNat then .error .badIndex
      else .ok { table := n, index := index.toNat, check := low.toNat + 256 * high.toNat, image } := by
  have small : code % 256 = code := Nat.mod_eq_of_lt (by omega)
  have long : reaches (tag :: BitVec.ofNat 8 code :: index :: low :: high :: (image ++ more)) (6 + imageSize n) = true := by
    simp only [reaches, List.length_cons, List.length_append, hi, decide_eq_true_eq]
    omega
  have cut : (image ++ more).take (imageSize n) = image := List.take_left' hi
  simp [swapArgs, paramByte, paramHalf, u16, small, hn, shortestImage, long, tableByte, cut]

theorem State.swapRequest_of_error {s : State} {rest : List Byte} {e : Status} (h : swapArgs rest = .error e) :
    s.swapRequest rest = s.deny 5 (tagOf rest) e := by
  unfold State.swapRequest
  rw [h]

section
variable {s : State} {rest : List Byte} {n : TableName} {i check : Nat} {image : List Byte}
  (ok : swapArgs rest = .ok ⟨n, i, check, image⟩)
include ok

theorem State.swapRequest_of_pending (h : s.tables.waiting.get n = true) :
    s.swapRequest rest = s.deny 5 (tagOf rest) .pending := by
  unfold State.swapRequest
  rw [ok]
  exact if_pos h

variable (free : s.tables.waiting.get n = false)
include free

theorem State.swapRequest_of_range (h : writeImage s.node s.tables.staged n i image = none) :
    s.swapRequest rest = s.deny 5 (tagOf rest) .range := by
  unfold State.swapRequest
  rw [ok]
  simp only [free, h, Bool.false_eq_true, if_false]

variable {st : StagedTables} {coerced : Nat}
  (written : writeImage s.node s.tables.staged n i image = some (st, coerced))
include written

theorem State.swapRequest_of_mismatch (h : entryCheck s.tables.staged n i ≠ check) :
    s.swapRequest rest = s.answer 5 (tagOf rest)
      { status := .mismatch
        payload := half (entryCheck s.tables.staged n i) ++ stagedImage s.tables.staged n i } id := by
  unfold State.swapRequest
  rw [ok]
  simp only [free, written, Bool.false_eq_true, if_false]
  exact if_pos h

theorem State.swapRequest_of_match (h : entryCheck s.tables.staged n i = check) :
    s.swapRequest rest = s.answer 5 (tagOf rest)
      { status := .done, payload := byte coerced ++ half (entrySum st n).toNat } fun t => t.stage st n := by
  unfold State.swapRequest
  rw [ok]
  simp only [free, written, Bool.false_eq_true, if_false]
  exact if_neg (not_not_intro h)

end

/-! ## The statement -/

/-- Settles O57: the checks of the request decide which of its outcomes applies, and the positions treated stay in the
table. -/
theorem writeAndSwap : Obligations.WriteAndSwap := by
  refine ⟨?_, ?_, ?_, ?_⟩
  · intro tag b index count images more s q n start mode clear7 clear6 continued named length sizes low high write onward
      treated written
    have access := State.accessOf_write_images clear7 clear6 (s.address_eq tag _ continued named) (more := more) length sizes
      low high
    have onwardNext : ∀ p < tableSize n, onward p = nextPosition n mode p := by
      intro p hp
      cases mode with
      | table => exact if_congr (by omega) rfl rfl
      | group => rfl
      | fixed => rfl
    have writes : start < tableSize n → writeImages s.node n ((positions n mode count.toNat start).zip
        (writtenImages ⟨n, start, mode, count.toNat, false⟩ (tag :: b :: index :: count :: (images.flatten ++ more))))
        s.tables.staged = written := by
      intro h
      rw [writtenImages_flatten length sizes]
      exact (writeImages_positions onwardNext h _ _ _ _).symm
    refine ⟨fun hi h => ?_, fun hi hw h => ?_, fun hi hw hr h => ?_, fun st coerced hi hw hr h => ?_⟩
    · rw [if_pos hi] at access
      exact congrArg Host.Outcome.next ((State.writeRequest_of_error access).trans (h.denied rfl))
    all_goals
      rw [if_neg (by omega)] at access
      refine congrArg Host.Outcome.next ?_
    · exact (State.writeRequest_of_pending access hw).trans (h.denied rfl)
    · exact (State.writeRequest_of_range access hw ((writes hi).trans hr)).trans (h.denied rfl)
    · have cursor : onward^[count.toNat] start = positionAfter n mode count.toNat start :=
        (iterate_congr_of_lt onwardNext (fun _ => nextPosition_lt) hi _).trans (positionAfter_eq n mode _ _).symm
      have response : [4, tag, 0] ++ byte start ++ byte count.toNat ++ byte coerced ++ half (entrySum st n).toNat
          = 4 :: tag :: byte (statusCode .done)
            ++ (byte start ++ byte count.toNat ++ byte coerced ++ half (entrySum st n).toNat) := by
        simp only [List.append_assoc, List.cons_append]
        rfl
      rw [cursor]
      exact (State.writeRequest_of_written access hw ((writes hi).trans hr)).trans (h.answer response _)
  · intro tag index low high image more n code s q hn size swap check
    have args := swapArgs_of_table (tag := tag) (index := index) (low := low) (high := high) (more := more) code.isLt hn size
    refine ⟨fun hi h => ?_, fun hi hw h => ?_, fun hi hw hr h => ?_, fun st coerced hi hw hr => ⟨fun hc h => ?_, fun hc h => ?_⟩⟩
    · rw [if_pos hi] at args
      exact congrArg Host.Outcome.next ((State.swapRequest_of_error args).trans (h.denied rfl))
    all_goals
      rw [if_neg (by omega)] at args
      refine congrArg Host.Outcome.next ?_
    · exact (State.swapRequest_of_pending args hw).trans (h.denied rfl)
    · exact (State.swapRequest_of_range args hw hr).trans (h.denied rfl)
    · exact (State.swapRequest_of_mismatch args hw hr hc).trans (h.answer (List.append_assoc _ _ _) id)
    · exact (State.swapRequest_of_match args hw hr hc).trans (h.answer (List.append_assoc _ _ _) _)
  · intro tag b index count more s q write
    have denied : ∀ e, s.accessOf true (tag :: b :: index :: count :: more) = .error e →
        s.Answers [4, tag, BitVec.ofNat 8 (statusCode e)] q → exec write s = .next (s.answered q) :=
      fun e he h => congrArg Host.Outcome.next ((State.writeRequest_of_error he).trans (h.denied rfl))
    refine ⟨fun hb => denied .badRequest ?_, fun clear7 clear6 named hm hn => ?_, fun n clear7 clear6 hm hn bad =>
      denied .badRequest ?_⟩
    · obtain hb | hb | ⟨named, hm⟩ := hb
      · exact s.accessOf_write_of_bits tag _ (.inl hb)
      · exact s.accessOf_write_of_bits tag _ (.inr hb)
      · cases clear7 : bit b.toNat 7 with
        | true => exact s.accessOf_write_of_bits tag _ (.inl clear7)
        | false =>
          cases clear6 : bit b.toNat 6 with
          | true => exact s.accessOf_write_of_bits tag _ (.inr clear6)
          | false => exact State.accessOf_write_noMode clear7 clear6 (s.address_of_noMode tag _ named hm)
    · have access := State.accessOf_write_noTable clear7 clear6 (s.address_of_noTable tag (index :: count :: more) named hm hn)
      exact ⟨fun bad => denied .badRequest (access.trans (if_pos bad)),
        fun hl hh hf => denied .badTable (access.trans (if_neg (by omega)))⟩
    · obtain ⟨i, m, address⟩ : ∃ i m, s.address (tag :: b :: index :: count :: more) = .at' n i m := by
        cases h : bit b.toNat 3 with
        | true =>
          rw [if_pos h] at hn
          cases hn
          exact ⟨_, _, s.address_of_continue tag _ h⟩
        | false =>
          rw [if_neg (by simp [h])] at hn
          obtain ⟨m, mode⟩ := modeOf_eq_some (by omega) (hm h)
          exact ⟨_, m, s.address_of_named tag index _ h hn mode⟩
      exact (State.accessOf_write_at clear7 clear6 address).trans (if_pos bad)
  · intro rest s q
    have denied : ∀ e, swapArgs rest = .error e → s.Answers [5, tagOf rest, BitVec.ofNat 8 (statusCode e)] q →
        exec (.swap rest) s = .next (s.answered q) :=
      fun e he h => congrArg Host.Outcome.next ((State.swapRequest_of_error he).trans (h.denied rfl))
    refine ⟨fun hl h => ?_, fun hl => denied .badRequest (swapArgs_of_short ?_), fun n hn hl =>
      denied .badRequest (swapArgs_of_short ?_), fun hl h7 => denied .badTable (swapArgs_of_seven hl ?_)⟩
    · exact congrArg Host.Outcome.next ((State.writeRequest_of_error (s.accessOf_write_of_short hl)).trans (h.denied rfl))
    · have := shortestImage_ge (tableOf (paramByte rest 2))
      omega
    · have table : tableOf (paramByte rest 2) = some n := hn
      rw [table]
      exact hl
    · exact congrArg BitVec.toNat h7

end Sys2Proof.Machine
end

section
/-! COMMIT with its cross-checks, HOLD, RELEASE and DISCARD (R176 to R179, R182, R187, R194). -/

namespace Sys2Proof.Machine

/-! ## What the cross-checks say of a combination (R177) -/

theorem FitEntry.emitKind_eq_some {x : FitEntry} {k : EmitKind} : x.emitKind = some k ↔ ∃ e, x.role = .emit k e := by
  unfold FitEntry.emitKind
  split <;> rename_i h <;> simp [h]

theorem mem_emitKinds {es : List FitEntry} {k : EmitKind} :
    k ∈ es.filterMap FitEntry.emitKind ↔ ∃ x ∈ es, ∃ e, x.role = .emit k e := by
  simp only [List.mem_filterMap, FitEntry.emitKind_eq_some]

theorem FitEntry.isSync_eq (x : FitEntry) : x.isSync = x.role.isSync := by
  obtain ⟨_, _, _, _, role⟩ := x
  cases role <;> rfl

/-- No two members pass a test exactly where at most one does. -/
theorem length_filter_le_one_iff {α : Type} (p : α → Bool) (xs : List α) :
    (xs.filter p).length ≤ 1 ↔ xs.Pairwise fun a b => ¬(p a = true ∧ p b = true) := by
  have apart : (xs.filter p).length ≤ 1 ↔ (xs.filter p).Pairwise fun _ _ => False := by
    match xs.filter p with
    | [] => simp
    | [_] => simp
    | a :: b :: _ => exact ⟨fun h => absurd h (by simp), fun h => (List.rel_of_pairwise_cons h List.mem_cons_self).elim⟩
  rw [apart, List.pairwise_filter]
  exact List.Pairwise.iff fun a b => by simp

theorem noDuplicate_iff (es : List FitEntry) : noDuplicate es = true ↔
    es.Pairwise (fun a b => ¬(a.role.rank = b.role.rank ∧ a.id = b.id))
      ∧ es.Pairwise (fun a b => ¬(a.role.isSync = true ∧ b.role.isSync = true))
      ∧ es.Pairwise (fun a b => ∀ k e e', a.role = .emit k e → b.role ≠ .emit k e') := by
  simp only [noDuplicate, Bool.and_eq_true, decide_eq_true_eq, and_assoc]
  refine and_congr ?_ (and_congr ?_ ?_)
  · rw [List.Nodup, List.pairwise_map]
    exact List.Pairwise.iff fun a b => by simp
  · rw [length_filter_le_one_iff]
    exact List.Pairwise.iff fun a b => by rw [FitEntry.isSync_eq, FitEntry.isSync_eq]
  · rw [List.Nodup, List.pairwise_filterMap]
    refine List.Pairwise.iff fun a b => ?_
    simp only [FitEntry.emitKind_eq_some]
    constructor
    · intro h k e e' ha hb
      exact h k ⟨e, ha⟩ k ⟨e', hb⟩ rfl
    · rintro h k ⟨e, ha⟩ _ ⟨e', hb⟩ rfl
      exact h k e e' ha hb

/-- The kinds that every FIT must hold are all but those of the doors (R177). -/
theorem mem_requiredKinds {k : EmitKind} : k ∈ requiredKinds ↔ ∀ d, k ≠ .door d := by
  cases k with
  | steer r => cases r <;> simp [requiredKinds]
  | damp j => cases j <;> simp [requiredKinds]
  | brake a => cases a <;> simp [requiredKinds]
  | valve a => cases a <;> simp [requiredKinds]
  | door d => simp [requiredKinds]
  | chassisState => simp [requiredKinds]

theorem mem_fittedDoors {v : Vector DoorParams 5} {d : Door} : d ∈ fittedDoors v ↔ (v[doorIndex d]).fitted = true := by
  rw [fittedDoors, List.mem_filter]
  exact and_iff_right (PerDoor.mem_all d)

theorem complete_iff (c : ActiveTables) : complete c = true ↔ ∀ es, c.fit = some es →
    (∀ k, (∀ d, k ≠ .door d) → ∃ x ∈ es, ∃ e, x.role = .emit k e)
      ∧ ∀ v d, c.door = some v → (v[doorIndex d]).fitted = true → ∃ x ∈ es, ∃ e, x.role = .emit (.door d) e := by
  cases hf : c.fit with
  | none => simp [complete, hf]
  | some es =>
    simp only [complete, hf, Bool.and_eq_true, List.all_eq_true, decide_eq_true_eq, mem_emitKinds, mem_requiredKinds,
      Option.some.injEq, forall_eq']
    cases hd : c.door with
    | none => simp
    | some v =>
      simp only [mem_fittedDoors, Option.some.injEq]
      exact and_congr_right' ⟨fun h _ d hv => hv ▸ h d, fun h d => h v d rfl⟩

theorem geometryHolds_iff (c : ActiveTables) : geometryHolds c = true ↔ ∀ v, c.axle = some v →
    v[axleIndex .a3].path < v[axleIndex .a4].path ∧ ∀ k, c.constants = some k →
      2 * k[Param.pitch.index].toNat ≤ v[axleIndex .a3].path
        ∧ v[axleIndex .a4].path ≤ 250 * k[Param.pitch.index].toNat := by
  cases ha : c.axle with
  | none => simp [geometryHolds, ha]
  | some v =>
    cases hc : c.constants with
    | none => simp [geometryHolds, ha, hc]
    | some k =>
      simp only [geometryHolds, ha, hc, decide_eq_true_eq, Option.some.injEq, forall_eq']
      exact and_left_comm

/-! ## COMMIT by what its checks say (R176) -/

theorem tableOf_of_ge {n : Nat} (h : 7 ≤ n) : tableOf n = none := by
  unfold tableOf
  split <;> first | omega | rfl

/-- A code above 7 names no table; which of the two refusals it gets is left open (log entry 12). -/
theorem tableByte_of_wide {b : Byte} (h : 8 ≤ b.toNat) :
    tableByte b.toNat = .error (if Config.wideTableCodeIsBadTable b then .badTable else .badRequest) := by
  have seven : b.toNat ≠ 7 := by omega
  simp only [tableByte, tableOf_of_ge (n := b.toNat) (by omega), if_neg seven, BitVec.ofNat_toNat, BitVec.setWidth_eq]
  split <;> rfl

theorem commitArgs_of_short {rest : List Byte} (h : rest.length ≤ 3) : commitArgs rest = .error .badRequest := by
  have short : reaches rest 5 = false := by simpa [reaches] using Nat.lt_succ_of_le h
  simp [commitArgs, short]

theorem commitArgs_cons (tag code low high : Byte) (more : List Byte) :
    commitArgs (tag :: code :: low :: high :: more) =
      (tableByte code.toNat).map fun n => (n, low.toNat + 256 * high.toNat) := by
  simp only [commitArgs, paramByte, paramHalf, u16]
  cases h : tableByte code.toNat <;> simp [reaches, h, Except.map]

theorem State.commitRequest_of_error {s : State} {rest : List Byte} {e : Status} (h : commitArgs rest = .error e) :
    s.commitRequest rest = s.deny 6 (tagOf rest) e := by
  unfold State.commitRequest
  rw [h]

theorem State.commitRequest_of_refused {s : State} {rest : List Byte} {n : TableName} {sum : Nat} {e : Status}
    (h : commitArgs rest = .ok (n, sum)) (he : s.tables.commitStatus n sum = e) (ha : e ≠ .accepted) :
    s.commitRequest rest = s.answer 6 (tagOf rest) (s.tables.commitReply n e) id := by
  subst he
  unfold State.commitRequest
  rw [h]
  simp only [if_neg ha]
  rfl

theorem State.commitRequest_of_accepted {s : State} {rest : List Byte} {n : TableName} {sum : Nat}
    (h : commitArgs rest = .ok (n, sum)) (he : s.tables.commitStatus n sum = .accepted) :
    s.commitRequest rest = s.answer 6 (tagOf rest) (s.tables.commitReply n .accepted)
      fun u => { u with tables := u.tables.join n } := by
  unfold State.commitRequest
  rw [h]
  simp only [he, if_true]

theorem TableStore.commitStatus_of_pending {ts : TableStore} {n : TableName} (sum : Nat) (h : ts.waiting.get n = true) :
    ts.commitStatus n sum = .pending := if_pos h

section
variable {ts : TableStore} {n : TableName} {sum : Nat} (free : ts.waiting.get n = false)
include free

theorem TableStore.commitStatus_of_sum (h : sum ≠ (ts.sums.get n).toNat) : ts.commitStatus n sum = .sumMismatch := by
  rw [TableStore.commitStatus, if_neg (by simp [free]), if_pos h]

variable (agreed : sum = (ts.sums.get n).toNat)
include agreed

theorem TableStore.commitStatus_of_failed {e : Status} (h : crossCheck n (ts.combination n) = some e) :
    ts.commitStatus n sum = e := by
  rw [TableStore.commitStatus, if_neg (by simp [free]), if_neg (not_not_intro agreed), h]

theorem TableStore.commitStatus_of_passed (h : crossCheck n (ts.combination n) = none) :
    ts.commitStatus n sum = .accepted := by
  rw [TableStore.commitStatus, if_neg (by simp [free]), if_neg (not_not_intro agreed), h]

end

theorem crossCheck_of_geometry {n : TableName} {c : ActiveTables} (hn : n = .axle ∨ n = .constants)
    (h : geometryHolds c = false) : crossCheck n c = some .geometry := by
  rw [crossCheck, if_pos ⟨hn, by simp [h]⟩]

theorem crossCheck_of_duplicate {c : ActiveTables} (h : noDuplicate (c.fit.getD []) = false) :
    crossCheck .fit c = some .duplicate := by
  simp [crossCheck, h]

theorem crossCheck_of_incomplete {n : TableName} {c : ActiveTables} (hn : n = .fit ∨ n = .door)
    (unique : n = .fit → noDuplicate (c.fit.getD []) = true) (h : complete c = false) : crossCheck n c = some .incomplete := by
  obtain rfl | rfl := hn
  · simp [crossCheck, h, unique rfl]
  · simp [crossCheck, h]

/-! ## DISCARD (R182) -/

theorem discardMask_of_short {rest : List Byte} (h : rest.length ≤ 1) : discardMask rest = .error .badRequest := by
  have short : reaches rest 3 = false := by simpa [reaches] using h
  simp [discardMask, short]

/-- The tables that a mask of seven bits names (12.6). -/
def maskTables (mask : Nat) : PerTable Bool :=
  { fit := bit mask 0, schedule := bit mask 1, axle := bit mask 2, corner := bit mask 3, door := bit mask 4
    guard := bit mask 5, constants := bit mask 6 }

theorem bit_seven (mask : Byte) : bit mask.toNat 7 = decide (128 ≤ mask.toNat) := by
  have := mask.isLt
  rw [bit, Bool.eq_iff_iff, beq_iff_eq, decide_eq_true_iff]
  omega

theorem discardMask_cons (tag mask : Byte) (more : List Byte) : discardMask (tag :: mask :: more) =
    if 128 ≤ mask.toNat then .error .badTable else .ok (maskTables mask.toNat) := by
  simp [discardMask, reaches, paramByte, bit_seven, maskTables]

theorem maskTables_get {mask : Nat} {n : TableName} {code : Fin 7} (h : tableOf code = some n) :
    (maskTables mask).get n = bit mask code := by
  fin_cases code <;> cases h <;> rfl

/-- Copies restored one after another: the store with its pending set and its active copies as they were. -/
def TableStore.restored (ts : TableStore) (ns : List TableName) : TableStore :=
  ns.foldl (fun us n => us.stage (restoreTable us.staged us.active n) n) ts

theorem TableStore.discard_eq (ts : TableStore) (mask : PerTable Bool) :
    ts.discard mask = ts.cancel.restored (tableList mask) := rfl

theorem TableStore.restored_frame (ts : TableStore) (ns : List TableName) :
    ts.restored ns = { ts with staged := (ts.restored ns).staged, sums := (ts.restored ns).sums } := by
  induction ns generalizing ts with
  | nil => rfl
  | cons n ns ih => exact ih (ts.stage (restoreTable ts.staged ts.active n) n)

theorem TableStore.restored_agreeAt (ts : TableStore) {ns : List TableName} {n : TableName} (h : n ∉ ns) :
    ts.staged.AgreeAt (ts.restored ns).staged n := by
  induction ns generalizing ts with
  | nil => exact .refl _ _
  | cons m ns ih =>
    obtain ⟨hm, hn⟩ := not_or.mp (mt List.mem_cons.mpr h)
    exact (restoreTable_agreeAt _ _ hm).trans (ih (ts.stage (restoreTable ts.staged ts.active m) m) hn)

/-- The restored copy of a table does not depend on what was staged. -/
theorem restoreTable_agreeAt_self (st st' : StagedTables) (act : ActiveTables) (n : TableName) :
    (restoreTable st act n).AgreeAt (restoreTable st' act n) n := by
  cases n <;> rfl

theorem TableStore.restored_agreeAt_restoreTable (ts : TableStore) {ns : List TableName} {n : TableName} (h : n ∈ ns) :
    (restoreTable ts.staged ts.active n).AgreeAt (ts.restored ns).staged n := by
  induction ns generalizing ts with
  | nil => cases h
  | cons m ns ih =>
    by_cases hn : n ∈ ns
    · exact (restoreTable_agreeAt_self _ _ _ n).trans (ih (ts.stage (restoreTable ts.staged ts.active m) m) hn)
    · obtain rfl : n = m := (List.mem_cons.mp h).resolve_right hn
      exact TableStore.restored_agreeAt (ts.stage (restoreTable ts.staged ts.active n) n) hn

/-- The image of a restored copy is that of the active copy, or of the blank one where that is ABSENT (R182). -/
theorem stagedImage_restoreTable (st : StagedTables) (act : ActiveTables) {n : TableName} {i : Nat} (h : i < tableSize n) :
    some (stagedImage (restoreTable st act n) n i) =
      (activeImage act n i).orElse fun _ => some (stagedImage StagedTables.blank n i) := by
  cases n with
  | fit =>
    cases hf : act.fit with
    | none => simp [stagedImage, restoreTable, activeImage, hf]
    | some es =>
      have position : vget (stagedFit es) i none = es[i]? := by
        rw [vget_of_lt _ (show i < 96 from h), stagedFit, Vector.getElem_ofFn]
      simp [stagedImage, restoreTable, activeImage, hf, position]
  | schedule => cases ha : act.schedule <;> simp [stagedImage, restoreTable, activeImage, ha]
  | axle => cases ha : act.axle <;> simp [stagedImage, restoreTable, activeImage, ha]
  | corner => cases ha : act.corner <;> simp [stagedImage, restoreTable, activeImage, ha]
  | door => cases ha : act.door <;> simp [stagedImage, restoreTable, activeImage, ha]
  | guard => cases ha : act.guard <;> simp [stagedImage, restoreTable, activeImage, ha]
  | constants => cases ha : act.constants <;> simp [stagedImage, restoreTable, activeImage, ha]

theorem mem_tableList {set : PerTable Bool} {n : TableName} : n ∈ tableList set ↔ set.get n = true := by
  rw [tableList, List.mem_filter]
  exact and_iff_right (PerTable.mem_all n)

/-- A cancellation reaches the pending set and the outcome alone (R182). -/
theorem TableStore.cancel_frame (ts : TableStore) :
    ts.cancel = { ts with waiting := ts.cancel.waiting, outcome := ts.cancel.outcome } := by
  obtain ⟨-, h⟩ | ⟨-, h⟩ := ts.cancel_eq <;> rw [h]

/-- A DISCARD keeps the active copies, the hold flag, the epochs and the part state; its pending set and its outcome are those
of the cancellation (R182). -/
theorem TableStore.discard_keeps (ts : TableStore) (mask : PerTable Bool) :
    (ts.discard mask).waiting = ts.cancel.waiting ∧ (ts.discard mask).outcome = ts.cancel.outcome
      ∧ (ts.discard mask).active = ts.active ∧ (ts.discard mask).hold = ts.hold
      ∧ (ts.discard mask).epochs = ts.epochs ∧ (ts.discard mask).partState = ts.partState := by
  rw [TableStore.discard_eq, TableStore.restored_frame]
  have cancelled := ts.cancel_frame
  exact ⟨rfl, rfl, congrArg (·.active) cancelled, congrArg (·.hold) cancelled, congrArg (·.epochs) cancelled,
    congrArg (·.partState) cancelled⟩

/-- A DISCARD leaves the copies beside its mask as they are. -/
theorem TableStore.discard_image_of_unmasked (ts : TableStore) {mask : PerTable Bool} {n : TableName}
    (h : mask.get n = false) (i : Nat) : stagedImage (ts.discard mask).staged n i = stagedImage ts.staged n i := by
  have outside : n ∉ tableList mask := by simp [mem_tableList, h]
  have kept : ts.cancel.staged = ts.staged := by rw [TableStore.cancel_frame]
  rw [← kept]
  exact (ts.cancel.restored_agreeAt outside).stagedImage i

/-- A DISCARD restores the copies of its mask (R182). -/
theorem TableStore.discard_image_of_masked (ts : TableStore) {mask : PerTable Bool} {n : TableName}
    (h : mask.get n = true) {i : Nat} (hi : i < tableSize n) : some (stagedImage (ts.discard mask).staged n i) =
      (activeImage ts.active n i).orElse fun _ => some (stagedImage StagedTables.blank n i) := by
  have restored := (ts.cancel.restored_agreeAt_restoreTable (mem_tableList.mpr h)).stagedImage i
  rw [← TableStore.discard_eq, ts.cancel_active] at restored
  rw [restored]
  exact stagedImage_restoreTable _ _ hi

theorem State.discardRequest_of_error {s : State} {rest : List Byte} {e : Status} (h : discardMask rest = .error e) :
    s.discardRequest rest = s.deny 9 (tagOf rest) e := by
  unfold State.discardRequest
  rw [h]

theorem State.discardRequest_of_mask {s : State} {rest : List Byte} {mask : PerTable Bool} (h : discardMask rest = .ok mask) :
    s.discardRequest rest = s.answer 9 (tagOf rest) (bareReply .done) fun t => { t with tables := t.tables.discard mask } := by
  unfold State.discardRequest
  rw [h]

/-! ## The statement -/

/-- Settles O58: the checks of a COMMIT in their order, the two writes of the hold flag, and a DISCARD as a cancellation and
copies restored one after another. -/
theorem commitControl : Obligations.CommitControl := by
  refine ⟨?_, ?_, ⟨noDuplicate_iff, complete_iff, geometryHolds_iff⟩, ?_, ?_⟩
  · intro tag low high more n code s q hn commit sum joined next
    have args : commitArgs (tag :: BitVec.ofNat 8 code :: low :: high :: more) = .ok (n, sum) := by
      have small : (BitVec.ofNat 8 code).toNat = code := Nat.mod_eq_of_lt (by omega)
      rw [commitArgs_cons, small, tableByte, hn]
      rfl
    have failed : ∀ e, s.tables.waiting.get n = false → sum = (s.tables.sums.get n).toNat →
        crossCheck n next = some e → s.tables.commitStatus n sum = e :=
      fun e hw hs hc => TableStore.commitStatus_of_failed hw hs hc
    have denied : ∀ e, s.tables.commitStatus n sum = e → e ≠ .accepted → s.tables.commitReply n e = bareReply e →
        s.Answers [6, tag, BitVec.ofNat 8 (statusCode e)] q → exec commit s = .next (s.answered q) := by
      intro e he ha hr h
      have refused := State.commitRequest_of_refused args he ha
      rw [hr] at refused
      exact congrArg Host.Outcome.next (refused.trans (h.denied rfl))
    refine ⟨fun hw => denied .pending (TableStore.commitStatus_of_pending _ hw) nofun rfl, fun hw hs h => ?_,
      fun hw hs geometry duplicate complete h => ?_,
      fun hw hs hn hg => denied .geometry (failed _ hw hs (crossCheck_of_geometry hn hg)) nofun rfl,
      fun hw hs hn hd => denied .duplicate (failed _ hw hs ?_) nofun rfl,
      fun hw hs hn hd hc => denied .incomplete (failed _ hw hs (crossCheck_of_incomplete hn hd hc)) nofun rfl⟩
    · refine congrArg Host.Outcome.next ?_
      exact (State.commitRequest_of_refused args (TableStore.commitStatus_of_sum hw hs) nofun).trans (h.answer rfl id)
    · have passed : crossCheck n next = none := crossCheck_eq_none.mpr ⟨geometry, duplicate, complete⟩
      refine congrArg Host.Outcome.next ?_
      exact (State.commitRequest_of_accepted args (TableStore.commitStatus_of_passed hw hs passed)).trans (h.answer rfl _)
    · subst hn
      exact crossCheck_of_duplicate hd
  · intro tag code low high rest more s q commit
    have denied : ∀ e, tableByte code.toNat = .error e → s.Answers [6, tag, BitVec.ofNat 8 (statusCode e)] q →
        exec commit s = .next (s.answered q) := by
      intro e he h
      have args : commitArgs (tag :: code :: low :: high :: more) = .error e := by
        rw [commitArgs_cons, he]
        rfl
      exact congrArg Host.Outcome.next ((State.commitRequest_of_error args).trans (h.denied rfl))
    refine ⟨fun hl h => ?_, fun h7 => denied .badTable (by rw [h7]; rfl), fun h8 h => denied _ (tableByte_of_wide h8) ?_,
      fun hl h => ?_⟩
    · exact congrArg Host.Outcome.next ((State.commitRequest_of_error (commitArgs_of_short hl)).trans (h.denied rfl))
    · cases hc : Config.wideTableCodeIsBadTable code <;> rw [hc] at h <;> exact h
    · exact congrArg Host.Outcome.next ((State.discardRequest_of_error (discardMask_of_short hl)).trans (h.denied rfl))
  · intro rest s q
    exact ⟨fun h => congrArg Host.Outcome.next (h.answer rfl _), fun h => congrArg Host.Outcome.next (h.answer rfl _)⟩
  · intro tag mask more s q
    have args := discardMask_cons tag mask more
    refine ⟨fun hm h => ?_, fun hm h => ?_⟩
    · rw [if_neg (by omega)] at args
      have answered : s.discardRequest (tag :: mask :: more) =
          { s.answered q with tables := s.tables.discard (maskTables mask.toNat) } :=
        (State.discardRequest_of_mask args).trans (h.answer rfl _)
      obtain ⟨waiting, outcome, active, hold, epochs, partState⟩ := s.tables.discard_keeps (maskTables mask.toNat)
      refine ⟨_, congrArg Host.Outcome.next answered, rfl, fun n => ?_, active, hold, epochs, partState,
        fun empty => outcome.trans ?_, fun ⟨n, pending⟩ => outcome.trans ?_,
        fun n code hn => ⟨fun hb i => ?_, fun hb i hi => ?_⟩⟩
      · exact (congrArg (·.get n) waiting).trans (s.tables.cancel_waiting n)
      · obtain ⟨-, kept⟩ | ⟨⟨n, pending⟩, -⟩ := s.tables.cancel_eq
        · rw [kept]
        · rw [empty n] at pending
          cases pending
      · obtain ⟨empty, -⟩ | ⟨-, cancelled⟩ := s.tables.cancel_eq
        · rw [empty n] at pending
          cases pending
        · rw [cancelled]
      · exact s.tables.discard_image_of_unmasked ((maskTables_get hn).trans hb) i
      · exact s.tables.discard_image_of_masked ((maskTables_get hn).trans hb) hi
    · rw [if_pos hm] at args
      exact congrArg Host.Outcome.next ((State.discardRequest_of_error args).trans (h.denied rfl))

end Sys2Proof.Machine
end
